-- ==== Sys2Proof/Word.lean ====
section
/-! DEFINITION. The word types of the block: bytes, 16-bit addresses, register offsets (00_scope.md R3, R5). -/

namespace Sys2Proof

/-- A byte: every bus transfer moves one (R3, R5). -/
abbrev Byte := BitVec 8

/-- A `u16`: a bus address (R33) or a video address (R17). -/
abbrev Addr := BitVec 16

/-- A register offset 0..7 within the window, the field `K` of format T (R50). -/
abbrev Offset := BitVec 3

/-- A pixel value 0..3 of a decoded tile (R3, R96). -/
abbrev Pixel := BitVec 2

end Sys2Proof
end

