-- ==== Sys2Proof/Config.lean ====
section
/-! DEFINITION. What an implementation fixes (00_scope.md R2) and the free values (R8). -/

namespace Sys2Proof

/-- `STATUS_READ_VALUE` (R2): the byte a status read returns, before or after the vblank clear. -/
inductive StatusReadValue
  | preClear
  | postClear
deriving DecidableEq, Repr

/-- `DATA_READ_MODE` (R2): what a bus read of the video I/O register does. -/
inductive DataReadMode
  | directIncrement
  | noEffect
deriving DecidableEq, Repr

/-- `SCROLL_POLICY` (R2): what a write to the scroll register does. -/
inductive ScrollPolicy
  | noEffect
  | refuse
deriving DecidableEq, Repr

/-- A run of bus addresses of a register window: address `first + n`, for `n < count`, is the offset
`(offset + n) mod 8`. Lists of these describe any `reg_select` as plain data (DESIGN CHOICE, log entry 2: safe). -/
structure RegRange where
  first  : Addr
  count  : Nat
  offset : Offset
deriving DecidableEq, Repr

/-- `reg_select` (R2) as plain data: the default window of eight addresses at `REG_BASE`, or any other map given
as address ranges, the first range that holds an address deciding (DESIGN CHOICE, log entry 2: safe). -/
inductive RegMap
  | window
  | ranges (rs : List RegRange)
deriving DecidableEq, Repr

/-- The implementation parameters of R2 that an operation of the block reads. -/
structure Params where
  /-- `REG_BASE` -/
  regBase         : Addr
  /-- `reg_select` -/
  regMap          : RegMap
  /-- `VBLANK_BIT` -/
  vblankBit       : Fin 8
  /-- `CTRL_INC_BIT` -/
  ctrlIncBit      : Fin 8
  /-- `VRAM_SIZE` -/
  vramSize        : Nat
  /-- `STATUS_READ_VALUE` -/
  statusReadValue : StatusReadValue
  /-- `DATA_READ_MODE` -/
  dataReadMode    : DataReadMode
  /-- `SCROLL_POLICY` -/
  scrollPolicy    : ScrollPolicy
deriving DecidableEq, Repr

/-- The defaults of R2 (decisions D1, D3 to D7 and D11 of the spec; log entry 1). -/
def Params.defaults : Params where
  regBase         := 0x2000
  regMap          := .window
  vblankBit       := 7
  ctrlIncBit      := 2
  vramSize        := 0x10000
  statusReadValue := .preClear
  dataReadMode    := .directIncrement
  scrollPolicy    := .noEffect

/-- A colour of the debug palette: a token that is only handed on (R99). -/
structure Colour where
  token : Nat
deriving DecidableEq, Repr, Inhabited

/-- The `n`th `draw()` (R8): an unspecified byte, chosen by no law. It has no body, so nothing can evaluate it; each
draw takes the next `n`, so two draws are independent (log entry 3: safe). -/
opaque Config.freeByte : Nat → Byte

/-- `DEBUG_PALETTE` (R2, R99): four colours the spec leaves open (D22; log entry 14: safe). -/
opaque Config.debugPalette : Fin 4 → Colour

end Sys2Proof
end

