-- ==== Sys2Proof/Machine/RegSelect.lean ====
section
/-! DEFINITION. `reg_select`: which bus addresses are in the register window, and at which offset (00_scope.md R2, R11). -/

namespace Sys2Proof

/-- The offset a range gives an address; the bounds are compared as natural numbers, so a window at the top of the
bus does not wrap to address 0 (DEDUCED, log entry 2). -/
def RegRange.select (r : RegRange) (a : Addr) : Option Offset :=
  if r.first.toNat ≤ a.toNat ∧ a.toNat < r.first.toNat + r.count then
    some (r.offset + BitVec.ofNat 3 (a.toNat - r.first.toNat))
  else none

/-- The first range of a list that holds an address decides. -/
def selectRange : List RegRange → Addr → Option Offset
  | [], _ => none
  | r :: rs, a =>
    match r.select a with
    | some k => some k
    | none => selectRange rs a

/-- The default window: offsets 0..7 at `REG_BASE` (R2, R4). -/
def Params.windowRange (p : Params) : RegRange := { first := p.regBase, count := 8, offset := 0 }

/-- `reg_select(a)` (R2). -/
def Params.regSelect (p : Params) (a : Addr) : Option Offset :=
  match p.regMap with
  | .window => p.windowRange.select a
  | .ranges rs => selectRange rs a

end Sys2Proof
end

