-- ==== Sys2Proof/Syntax.lean ====
section
/-! DEFINITION. The operations of the block (spec/opcode_table.json, one constructor a row), the agents that issue
them (00_scope.md R1) and the raw formats B, T and H they arrive in (30_encoding.md R49, R50, R53). -/

namespace Sys2Proof

/-- The operations the block accepts. -/
inductive Instr
  /-- `RD_CTRL` (R67) -/
  | rdCtrl
  /-- `RD_R1` (R68) -/
  | rdR1
  /-- `RD_STATUS` (R65) -/
  | rdStatus
  /-- `RD_R3` (R69) -/
  | rdR3
  /-- `RD_R4` (R70) -/
  | rdR4
  /-- `RD_SCROLL` (R71) -/
  | rdScroll
  /-- `RD_ADDR` (R72) -/
  | rdAddr
  /-- `RD_DATA` (R66) -/
  | rdData
  /-- `WR_CTRL` (R74) -/
  | wrCtrl (d : Byte)
  /-- `WR_R1` (R79) -/
  | wrR1 (d : Byte)
  /-- `WR_STATUS` (R78) -/
  | wrStatus (d : Byte)
  /-- `WR_R3` (R80) -/
  | wrR3 (d : Byte)
  /-- `WR_R4` (R81) -/
  | wrR4 (d : Byte)
  /-- `WR_SCROLL` (R75) -/
  | wrScroll (d : Byte)
  /-- `WR_ADDR` (R76) -/
  | wrAddr (b : Byte)
  /-- `WR_DATA` (R77) -/
  | wrData (d : Byte)
  /-- `RD_UNMAPPED` (R73) -/
  | rdUnmapped (a : Addr)
  /-- `WR_UNMAPPED` (R82) -/
  | wrUnmapped (a : Addr) (d : Byte)
  /-- `RESET` (R120) -/
  | reset
  /-- `STATUS_EVENT` (R102) -/
  | statusEvent (setMask clrMask : Byte)
  /-- `TICK` (R104) -/
  | tick
  /-- `DECODE_TILE` (R90); the index is an unbounded natural number (R91) -/
  | decodeTile (i : Nat)
  /-- `RESERVED_HOST` (R109) -/
  | reservedHost (c : BitVec 4)
deriving DecidableEq, Repr

/-- The three agents of R1. -/
inductive Agent
  | busMaster
  | frameTiming
  | host
deriving DecidableEq, Repr

/-- The agent that issues an operation (R1). No rule names the agent of a reserved host code: the model makes it the
host's (DESIGN CHOICE, log entry 18: unsafe). -/
def Instr.agent : Instr → Agent
  | .rdCtrl | .rdR1 | .rdStatus | .rdR3 | .rdR4 | .rdScroll | .rdAddr | .rdData => .busMaster
  | .wrCtrl _ | .wrR1 _ | .wrStatus _ | .wrR3 _ | .wrR4 _ | .wrScroll _ | .wrAddr _ | .wrData _ => .busMaster
  | .rdUnmapped _ | .wrUnmapped _ _ => .busMaster
  | .statusEvent _ _ | .tick => .frameTiming
  | .reset | .decodeTile _ | .reservedHost _ => .host

/-- The operands carried beside a host code (R53); a code reads only its own (log entry 7). -/
structure HostOperands where
  setMask   : Byte
  clrMask   : Byte
  tileIndex : Nat
deriving DecidableEq, Repr

/-- The operands of a code that has none. -/
def HostOperands.zero : HostOperands := ⟨0, 0, 0⟩

/-- An operation as it reaches the block. -/
inductive RawOp
  /-- format B (R49): `D` (true is a write), `ADDR`, `DATA` -/
  | bus (write : Bool) (addr : Addr) (data : Byte)
  /-- format T (R50): the 12-bit word -/
  | reg (word : BitVec 12)
  /-- format H (R53): the 4-bit code and the operands beside it -/
  | host (code : BitVec 4) (operands : HostOperands)
deriving DecidableEq, Repr

end Sys2Proof
end

