-- ==== Sys2Proof/WellFormed.lean ====
section
/-! DEFINITION. Which parameters R2 admits, and which terms of `Instr` are operations under given parameters. -/

namespace Sys2Proof

/-- The range R2 gives `VRAM_SIZE`; the other parameters are in range by their types. -/
def Params.wf (p : Params) : Bool :=
  decide (0x2000 ≤ p.vramSize) && decide (p.vramSize ≤ 0x10000)

/-- The host codes R53 reserves: `0000` and `0101` to `1111`. -/
def reservedHostCode (c : BitVec 4) : Bool :=
  c.toNat == 0 || decide (5 ≤ c.toNat)

/-- An unmapped access is at an address outside the window (R52), a reserved host code is one that R53 reserves; every
other term is an operation with any operand. -/
def Instr.wf (p : Params) : Instr → Bool
  | .rdUnmapped a => (p.regSelect a).isNone
  | .wrUnmapped a _ => (p.regSelect a).isNone
  | .reservedHost c => reservedHostCode c
  | .rdCtrl | .rdR1 | .rdStatus | .rdR3 | .rdR4 | .rdScroll | .rdAddr | .rdData => true
  | .wrCtrl _ | .wrR1 _ | .wrStatus _ | .wrR3 _ | .wrR4 _ | .wrScroll _ | .wrAddr _ | .wrData _ => true
  | .reset | .statusEvent _ _ | .tick | .decodeTile _ => true

end Sys2Proof
end

