-- ==== Sys2Proof/Decode.lean ====
section
/-! DEFINITION. The decoder, total on every raw operation (30_encoding.md R54), the encoder written from the same
formats, and the reading of a word as spec/opcode_table.json numbers its bits. -/

namespace Sys2Proof

/-- The register map of R55, column "read". -/
def readAt (k : Offset) : Instr :=
  match k.toFin with
  | 0 => .rdCtrl
  | 1 => .rdR1
  | 2 => .rdStatus
  | 3 => .rdR3
  | 4 => .rdR4
  | 5 => .rdScroll
  | 6 => .rdAddr
  | 7 => .rdData

/-- The register map of R55, column "write". -/
def writeAt (k : Offset) (d : Byte) : Instr :=
  match k.toFin with
  | 0 => .wrCtrl d
  | 1 => .wrR1 d
  | 2 => .wrStatus d
  | 3 => .wrR3 d
  | 4 => .wrR4 d
  | 5 => .wrScroll d
  | 6 => .wrAddr d
  | 7 => .wrData d

/-- A format-T word (R50): `D` in bit 11, `K` in bits 10:8, `DATA` in bits 7:0; a read ignores `DATA` (R51). -/
def decodeT (w : BitVec 12) : Instr :=
  if w.getLsbD 11 then writeAt (w.extractLsb' 8 3) (w.extractLsb' 0 8) else readAt (w.extractLsb' 8 3)

/-- The format-T word of a transaction (R50). -/
def wordT (write : Bool) (k : Offset) (data : Byte) : BitVec 12 :=
  BitVec.ofBool write ++ k ++ data

/-- A format-H code with its operands (R53); every other code is reserved. -/
def decodeH (c : BitVec 4) (o : HostOperands) : Instr :=
  if c = 0b0001 then .reset
  else if c = 0b0010 then .statusEvent o.setMask o.clrMask
  else if c = 0b0011 then .tick
  else if c = 0b0100 then .decodeTile o.tileIndex
  else .reservedHost c

/-- The decoder. A bus access first goes through `reg_select` (R49): with an offset it is the format-T word of that
transaction, with none an unmapped access (R52). -/
def decode (p : Params) : RawOp → Instr
  | .bus write a d =>
    match p.regSelect a with
    | some k => decodeT (wordT write k d)
    | none => if write then .wrUnmapped a d else .rdUnmapped a
  | .reg w => decodeT w
  | .host c o => decodeH c o

/-- The encoder: the canonical raw form of an operation (R50 with `DATA` 0 for a read by R51, R52, R53). -/
def encode : Instr → RawOp
  | .rdCtrl => .reg (wordT false 0 0)
  | .rdR1 => .reg (wordT false 1 0)
  | .rdStatus => .reg (wordT false 2 0)
  | .rdR3 => .reg (wordT false 3 0)
  | .rdR4 => .reg (wordT false 4 0)
  | .rdScroll => .reg (wordT false 5 0)
  | .rdAddr => .reg (wordT false 6 0)
  | .rdData => .reg (wordT false 7 0)
  | .wrCtrl d => .reg (wordT true 0 d)
  | .wrR1 d => .reg (wordT true 1 d)
  | .wrStatus d => .reg (wordT true 2 d)
  | .wrR3 d => .reg (wordT true 3 d)
  | .wrR4 d => .reg (wordT true 4 d)
  | .wrScroll d => .reg (wordT true 5 d)
  | .wrAddr d => .reg (wordT true 6 d)
  | .wrData d => .reg (wordT true 7 d)
  | .rdUnmapped a => .bus false a 0
  | .wrUnmapped a d => .bus true a d
  | .reset => .host 0b0001 .zero
  | .statusEvent set clr => .host 0b0010 ⟨set, clr, 0⟩
  | .tick => .host 0b0011 .zero
  | .decodeTile i => .host 0b0100 ⟨0, 0, i⟩
  | .reservedHost c => .host c .zero

/-- The agent that issues a raw operation (R1): bus accesses are the bus master's, status events and ticks the
frame-timing source's, `RESET` and `DECODE_TILE` the host's, and so is a reserved code (DESIGN CHOICE, log entry 18:
unsafe). -/
def RawOp.agent : RawOp → Agent
  | .bus _ _ _ => .busMaster
  | .reg _ => .busMaster
  | .host c _ => if c = 0b0010 ∨ c = 0b0011 then .frameTiming else .host

/-- Why a number is no word of the format its width names. -/
inductive DecodeError
  /-- up to 8 bits given, but more than the 4-bit host code of R53 -/
  | notHostCode (w : Nat)
  /-- up to 16 bits given, but more than the 12-bit word of R50 -/
  | notRegisterWord (w : Nat)
  /-- more bits given, but more than the 25 bits of a format-B triple of R49 -/
  | notBusAccess (w : Nat)
deriving DecidableEq, Repr

/-- The raw operation whose bits are `w`, when the table gives its row `nbits` bits in whole bytes: one byte is a
format-H code with operands of zeros, two bytes a format-T word, more a format-B triple laid out as `D` in bit 24,
`ADDR` in bits 23:8, `DATA` in bits 7:0 (DESIGN CHOICE, log entry 8: safe). -/
def rawOfTable (nbits w : Nat) : Except DecodeError RawOp :=
  if nbits ≤ 8 then
    if w < 2 ^ 4 then .ok (.host (BitVec.ofNat 4 w) .zero) else .error (.notHostCode w)
  else if nbits ≤ 16 then
    if w < 2 ^ 12 then .ok (.reg (BitVec.ofNat 12 w)) else .error (.notRegisterWord w)
  else
    if w < 2 ^ 25 then .ok (.bus (w.testBit 24) (BitVec.ofNat 16 (w / 2 ^ 8)) (BitVec.ofNat 8 w))
    else .error (.notBusAccess w)

/-- The instruction this decoder reads from the table's word, under the default parameters. -/
def decodeTableWord (nbits w : Nat) : Option Instr :=
  match rawOfTable nbits w with
  | .ok op => some (decode Params.defaults op)
  | .error _ => none

end Sys2Proof
end

