-- ==== Sys2Proof/Machine/State.lean ====
section
/-! DEFINITION. The state of the block (10_state.md R15) with the model's own fields beside it, the answers of
operations, and the reasons a run can end (60_exceptions.md R105). -/

namespace Sys2Proof.Machine

/-- `W`, the latch phase (R16). -/
inductive Phase
  | expectHigh
  | expectLow
deriving DecidableEq, Repr

/-- `V`, the 16-bit video address (R17), held as `V[15:8]` and `V[7:0]`, the halves the latch writes one at a time
(DESIGN CHOICE, log entry 12: safe). -/
structure VideoAddress where
  hi : Byte
  lo : Byte
deriving DecidableEq, Repr

/-- A decoded tile, `T[row][column]` (R94). -/
abbrev Grid := Vector (Vector Pixel 8) 8

/-- Video memory: address and byte pairs in the canonical form `Memory.wf` (Ops.lean). -/
abbrev Memory := List Host.Cell

/-- What an operation answers to the agent that issued it (R13). -/
inductive Answer
  /-- `return b`: the data of a bus read, to the bus master -/
  | busByte (b : Byte)
  /-- `result T`: the grid of a tile decode, to the host -/
  | tile (grid : Grid)
  /-- `OutOfRange(i)`, code 1: the error result of a tile decode, to the host; the block stays live (R106) -/
  | outOfRange (i : Nat)
deriving DecidableEq, Repr

/-- The faults that end a run (R105, kind "fault"). -/
inductive Fault
  /-- `InvalidPixelValue(p)`, code 2 (R107). Raised by the palette mapping of Adapter.lean only, for a value above 3;
  no operation of the block raises it. Safe: the run stops. -/
  | invalidPixelValue (p : Nat)
  /-- `VramOutOfRange(a)`, code 3 (R108). Raised by a data-port access at `V >= VRAM_SIZE`; nothing is written.
  Safe: the run stops. -/
  | vramOutOfRange (a : Addr)
deriving DecidableEq, Repr

/-- The refusals that end a run (R105 code 4, `Refused`). -/
inductive Refusal
  /-- An operation without a meaning yet; raised by exec's arm only. Safe. -/
  | notModelled (mnemonic : String)
  /-- `Refused(WR_SCROLL)` (R75, R109): a scroll write under `SCROLL_POLICY = REFUSE`. Safe: the run stops. -/
  | scrollWrite
  /-- A reserved host code (R53, R109). Safe: the run stops. -/
  | reservedHostCode (c : BitVec 4)
deriving DecidableEq, Repr

/-- The state. The first five fields are the architectural state, complete (R15); the other four are the model's own:
the parameters and the pending operations are inputs of a step (R24), the answers are outputs (R13). -/
structure State where
  /-- `W` (R16) -/
  w       : Phase
  /-- `V` (R17) -/
  v       : VideoAddress
  /-- `STATUS` (R18) -/
  status  : Byte
  /-- `CTRL` (R19) -/
  ctrl    : Byte
  /-- `VRAM` (R22) -/
  vram    : Memory
  /-- the implementation parameters (R2), fixed through a run (log entry 1) -/
  params  : Params
  /-- how many `draw()`s were taken (R8; log entry 3) -/
  draws   : Nat
  /-- the operations issued and not yet performed, in the order of the total order of R44 (log entry 6) -/
  inputs  : List RawOp
  /-- what the operations answered, newest first (log entry 9) -/
  answers : List Answer
deriving DecidableEq, Repr

/-- The block right after power-on at the default parameters (R28, R29): `CTRL` and both halves of `V` are draws
(log entry 4), nothing of `VRAM` is listed (log entry 5), nothing is pending. -/
def State.reset : State where
  w       := .expectHigh
  v       := ⟨Config.freeByte 1, Config.freeByte 2⟩
  status  := 0x80
  ctrl    := Config.freeByte 0
  vram    := []
  params  := Params.defaults
  draws   := 3
  inputs  := []
  answers := []

end Sys2Proof.Machine
end

