-- ==== Sys2Proof/Machine/Flags.lean ====
section
/-! DEFINITION. Every computation on STATUS (30_encoding.md R56) and the latch phase as a bit (10_state.md R16). -/

namespace Sys2Proof.Machine

/-- `1 << VBLANK_BIT`. -/
def vblankMask (p : Params) : Byte := (1 : Byte) <<< p.vblankBit.val

/-- `STATUS[VBLANK_BIT]` (R18). -/
def vblankOf (p : Params) (status : Byte) : Bool := status.getLsbD p.vblankBit

/-- `STATUS[VBLANK_BIT] <- 0` (R65). -/
def clearVblank (p : Params) (status : Byte) : Byte := status &&& ~~~(vblankMask p)

/-- `STATUS` after reset (R120): "in vblank", other bits 0. -/
def resetStatus (p : Params) : Byte := vblankMask p

/-- `(STATUS & ~clr_mask) | set_mask` (R102): set wins. -/
def statusAfterEvent (status setMask clrMask : Byte) : Byte := (status &&& ~~~clrMask) ||| setMask

/-- The byte a status read returns (R65): before the clear or after it, as `STATUS_READ_VALUE` says. -/
def statusReadByte (p : Params) (status : Byte) : Byte :=
  match p.statusReadValue with
  | .preClear => status
  | .postClear => clearVblank p status

/-- `W` written as a bit (R16): `ExpectHigh` is 1. -/
def Phase.toBit : Phase → BitVec 1
  | .expectHigh => 1
  | .expectLow => 0

/-- `not W` (R76): a Video Address write toggles the phase. -/
def Phase.toggle : Phase → Phase
  | .expectHigh => .expectLow
  | .expectLow => .expectHigh

end Sys2Proof.Machine
end

