-- ==== Sys2Proof/Machine/Operands.lean ====
section
/-! DEFINITION. How operands are read: the halves of `V` (30_encoding.md R58), the increment size (10_state.md R26),
the bytes of a tile and its pixels (R60, 43_tile_decoder.md R91 to R93). -/

namespace Sys2Proof.Machine

/-- `V` as the 16-bit address it is (R17): `{V[15:8], V[7:0]}`. -/
def VideoAddress.toAddr (v : VideoAddress) : Addr := v.hi ++ v.lo

/-- The halves of a 16-bit address. -/
def VideoAddress.ofAddr (a : Addr) : VideoAddress := ⟨a.extractLsb' 8 8, a.extractLsb' 0 8⟩

/-- `V` of a state. -/
def State.vAddr (s : State) : Addr := s.v.toAddr

/-- `INC` (R26): 32 when `CTRL[CTRL_INC_BIT]` is 1, else 1. -/
def incSize (p : Params) (ctrl : Byte) : Addr :=
  if ctrl.getLsbD p.ctrlIncBit then 32 else 1

/-- `INC` of a state, read from `CTRL` at that moment (R26). -/
def State.inc (s : State) : Addr := incSize s.params s.ctrl

/-- Whether an address of the 16-bit video-memory space holds a byte: `a < VRAM_SIZE` (R7). At the full size every
address does (R34); that case stands first so that it is decided without looking at the address. -/
def vramHas (p : Params) (a : Addr) : Bool :=
  decide (0x10000 ≤ p.vramSize) || decide (a.toNat < p.vramSize)

/-- The end of the pattern-table region `[0, 0x2000)` (R91). -/
def patternEnd : Nat := 0x2000

/-- Whether tile `i` lies in the pattern-table region, computed on unbounded naturals (R91). -/
def tileInRange (i : Nat) : Bool := !decide (16 * i + 16 > patternEnd)

/-- The address of the plane-1 byte of row `r` of tile `i` (R92). -/
def plane1Addr (i : Nat) (r : Fin 8) : Addr := BitVec.ofNat 16 (16 * i + r)

/-- The address of the plane-2 byte of row `r` of tile `i` (R92). -/
def plane2Addr (i : Nat) (r : Fin 8) : Addr := BitVec.ofNat 16 (16 * i + 8 + r)

/-- The pixel of column `c` (R93): bit `7 - c` of both plane bytes, plane 1 giving bit 0 and plane 2 bit 1. -/
def pixelOf (p1 p2 : Byte) (c : Fin 8) : Pixel :=
  BitVec.ofBool (p2.getLsbD (7 - c)) ++ BitVec.ofBool (p1.getLsbD (7 - c))

end Sys2Proof.Machine
end

