-- ==== Sys2Proof/Machine/Ops.lean ====
section
/-! DEFINITION. The named operations every meaning is written over: video memory (00_scope.md R7), draws and answers
(R8), the latch primitives (42_latch_state_machine.md R84 to R86), and how an operation reports an error
(60_exceptions.md R105, R112: there is no trap entry; an error is the answer of the operation or the end of the run). -/

namespace Sys2Proof.Machine

/-! ### Video memory as a canonical list -/

/-- What an unlisted address reads as: the model's value of a byte nothing has written (DESIGN CHOICE, log entry 5:
unsafe). -/
def Memory.fill : Byte := 0

/-- The canonical form: addresses strictly rising, no entry equal to the fill byte. -/
abbrev Memory.wf (m : Memory) : Prop :=
  m.Pairwise (fun x y => x.1 < y.1) ∧ ∀ c ∈ m, c.2 ≠ Memory.fill

/-- The byte at an address. -/
def Memory.read : Memory → Nat → Byte
  | [], _ => Memory.fill
  | c :: rest, a => if c.1 = a then c.2 else Memory.read rest a

/-- A cell put in front of a list, unless its byte is the fill byte. -/
def Memory.cons (a : Nat) (d : Byte) (rest : Memory) : Memory :=
  if d = Memory.fill then rest else (a, d) :: rest

/-- The memory after a byte is stored, in canonical form again. -/
def Memory.write : Memory → Nat → Byte → Memory
  | [], a, d => Memory.cons a d []
  | c :: rest, a, d =>
    if a < c.1 then Memory.cons a d (c :: rest)
    else if a = c.1 then Memory.cons a d rest
    else c :: Memory.write rest a d

/-! ### Setters, one a field that operations write -/

def State.setW (s : State) (w : Phase) : State := { s with w := w }
def State.setV (s : State) (v : VideoAddress) : State := { s with v := v }
def State.setStatus (s : State) (b : Byte) : State := { s with status := b }
def State.setCtrl (s : State) (b : Byte) : State := { s with ctrl := b }
def State.setVram (s : State) (m : Memory) : State := { s with vram := m }
def State.setDraws (s : State) (n : Nat) : State := { s with draws := n }
def State.pushAnswer (s : State) (x : Answer) : State := { s with answers := x :: s.answers }

/-- The byte of video memory at an address, as the host inspects it (R13). -/
def State.vramByte (s : State) (a : Addr) : Byte := Memory.read s.vram a.toNat

/-! ### Errors -/

/-- What a step answers. -/
abbrev Result := Host.Outcome State Fault Refusal

/-- An error that ends the run writes no state (R8, R112): the operation goes on only with a value. -/
def orFault {α : Type} (r : Except Fault α) (k : α → Result) : Result :=
  match r with
  | .ok x => k x
  | .error e => .fault e

/-- `OutOfRange(i)` (R106): the answer to the host; the block stays live and nothing else changes. -/
def raiseOutOfRange (i : Nat) (s : State) : Result := .next (s.pushAnswer (.outOfRange i))

/-- The error code of a fault (R105). -/
def Fault.code : Fault → Nat
  | .invalidPixelValue _ => 2
  | .vramOutOfRange _ => 3

/-- The error code of a refusal (R105): `Refused` is 4 whatever was refused. -/
def Refusal.code (_ : Refusal) : Nat := 4

/-- The error code of an answer, if it is an error (R105). -/
def Answer.errorCode : Answer → Option Nat
  | .busByte _ => none
  | .tile _ => none
  | .outOfRange _ => some 1

/-! ### The primitives of 00_scope.md -/

/-- `MemRead(a, 1)` (R7). -/
def memRead (a : Addr) (s : State) : Except Fault Byte :=
  if vramHas s.params a then .ok (s.vramByte a) else .error (.vramOutOfRange a)

/-- `MemWrite(a, 1, d)` (R7). -/
def memWrite (a : Addr) (d : Byte) (s : State) : Except Fault State :=
  if vramHas s.params a then .ok (s.setVram (Memory.write s.vram a.toNat d)) else .error (.vramOutOfRange a)

/-- `draw()` (R8): the next free byte, and the state that has taken it. -/
def draw (s : State) : Byte × State := (Config.freeByte s.draws, s.setDraws (s.draws + 1))

/-- `return b` (R8): the byte goes to the bus master. -/
def returnByte (b : Byte) (s : State) : Result := .next (s.pushAnswer (.busByte b))

/-- `return draw()` (R67 to R72): an unspecified byte, no state of the block written. -/
def returnDraw (s : State) : Result := returnByte (draw s).1 (draw s).2

/-! ### The latch primitives -/

/-- `LatchWriteHalf(b)` (R84): the half that `W` names, the other half kept, then `W` toggled. -/
def latchWriteHalf (b : Byte) (s : State) : State :=
  match s.w with
  | .expectHigh => (s.setV { s.v with hi := b }).setW .expectLow
  | .expectLow => (s.setV { s.v with lo := b }).setW .expectHigh

/-- `LatchForceHigh()` (R85). -/
def latchForceHigh (s : State) : State := s.setW .expectHigh

/-- `LatchAdvance()` (R86): `V <- (V + INC) mod 65536`. -/
def latchAdvance (s : State) : State := s.setV (.ofAddr (s.vAddr + s.inc))

end Sys2Proof.Machine
end

