-- ==== Sys2Proof/Machine/HostEvents.lean ====
section
/-! DEFINITION. Status events, ticks and reserved host codes (45_host_events.md R102, R104; 60_exceptions.md R109). -/

namespace Sys2Proof.Machine

/-- `STATUS_EVENT` (R102). -/
def execStatusEvent (setMask clrMask : Byte) (s : State) : Result :=
  .next (s.setStatus (statusAfterEvent s.status setMask clrMask))

/-- `TICK` (R104): a stub. -/
def execTick (s : State) : Result := .next s

/-- A reserved host code (R109): the model gives it no meaning, as the spec asks. -/
def execReservedHost (c : BitVec 4) (_s : State) : Result := .refused (.reservedHostCode c)

end Sys2Proof.Machine
end

