-- ==== Sys2Proof/Machine/RegisterReads.lean ====
section
/-! DEFINITION. The register reads and the unmapped read (40_register_reads.md R65 to R73). -/

namespace Sys2Proof.Machine

/-- `RD_STATUS` (R65): the byte, then `VBLANK` cleared and the latch forced high. -/
def execRdStatus (s : State) : Result :=
  returnByte (statusReadByte s.params s.status) (latchForceHigh (s.setStatus (clearVblank s.params s.status)))

/-- `RD_DATA` (R66): the byte at `V` before the increment, or under `NO_EFFECT` a draw and nothing else. Under both the
access at `V >= VRAM_SIZE` is the fault of R48, R105 and R66's exceptions line, raised before anything else; that this
line holds over R66's pseudocode for `NO_EFFECT`, which reads no byte, is DEDUCED (log entry 17: safe). -/
def execRdData (s : State) : Result :=
  orFault (memRead s.vAddr s) fun b =>
    match s.params.dataReadMode with
    | .directIncrement => returnByte b (latchAdvance s)
    | .noEffect => returnDraw s

/-- `RD_CTRL` (R67). -/
def execRdCtrl (s : State) : Result := returnDraw s

/-- `RD_R1` (R68). -/
def execRdR1 (s : State) : Result := returnDraw s

/-- `RD_R3` (R69). -/
def execRdR3 (s : State) : Result := returnDraw s

/-- `RD_R4` (R70). -/
def execRdR4 (s : State) : Result := returnDraw s

/-- `RD_SCROLL` (R71). -/
def execRdScroll (s : State) : Result := returnDraw s

/-- `RD_ADDR` (R72): neither returns `V` nor toggles `W`. -/
def execRdAddr (s : State) : Result := returnDraw s

/-- `RD_UNMAPPED` (R73): no statement, and the block drives no data (log entry 9). -/
def execRdUnmapped (_a : Addr) (s : State) : Result := .next s

end Sys2Proof.Machine
end

