-- ==== Sys2Proof/Machine/RegisterWrites.lean ====
section
/-! DEFINITION. The register writes and the unmapped write (41_register_writes.md R74 to R82). -/

namespace Sys2Proof.Machine

/-- A write the block discards: no statement, no state changes. -/
def discardWrite (_d : Byte) (s : State) : Result := .next s

/-- `WR_CTRL` (R74). -/
def execWrCtrl (d : Byte) (s : State) : Result := .next (s.setCtrl d)

/-- `WR_SCROLL` (R75): the documented limitation, or the refusal that `SCROLL_POLICY` asks for. -/
def execWrScroll (d : Byte) (s : State) : Result :=
  match s.params.scrollPolicy with
  | .noEffect => discardWrite d s
  | .refuse => .refused .scrollWrite

/-- `WR_ADDR` (R76). -/
def execWrAddr (b : Byte) (s : State) : Result := .next (latchWriteHalf b s)

/-- `WR_DATA` (R77): the store at `V` before the increment, then the increment. -/
def execWrData (d : Byte) (s : State) : Result :=
  orFault (memWrite s.vAddr d s) fun t => .next (latchAdvance t)

/-- `WR_STATUS` (R78): the register is read-only to the bus. -/
def execWrStatus (d : Byte) (s : State) : Result := discardWrite d s

/-- `WR_R1` (R79). -/
def execWrR1 (d : Byte) (s : State) : Result := discardWrite d s

/-- `WR_R3` (R80). -/
def execWrR3 (d : Byte) (s : State) : Result := discardWrite d s

/-- `WR_R4` (R81). -/
def execWrR4 (d : Byte) (s : State) : Result := discardWrite d s

/-- `WR_UNMAPPED` (R82): a no-op, not an error. -/
def execWrUnmapped (_a : Addr) (d : Byte) (s : State) : Result := discardWrite d s

end Sys2Proof.Machine
end

