-- ==== Sys2Proof/Machine/Reset.lean ====
section
/-! DEFINITION. Reset and power-on (70_reset_and_hazards.md R120, 10_state.md R28, R29). -/

namespace Sys2Proof.Machine

/-- The pseudocode of R120: the latch forced high, `V` two draws (high byte first), `STATUS` in vblank; `CTRL` and
`VRAM` unchanged. -/
def resetBlock (s : State) : State :=
  let s1 := latchForceHigh s
  let (hi, s2) := draw s1
  let (lo, s3) := draw s2
  (s3.setV ⟨hi, lo⟩).setStatus (resetStatus s.params)

/-- `RESET` (R120). -/
def execReset (s : State) : Result := .next (resetBlock s)

/-- Construction of the block (R29): `CTRL` is a draw, and `VRAM` holds whatever the draws of its bytes were, an
argument here. The latch is in its initial state (R83); the other values are overwritten by the reset that follows. -/
def construct (p : Params) (drawnVram : Memory) (draws : Nat) (inputs : List RawOp) : State where
  w       := .expectHigh
  v       := ⟨0, 0⟩
  status  := 0
  ctrl    := Config.freeByte draws
  vram    := drawnVram
  params  := p
  draws   := draws + 1
  inputs  := inputs
  answers := []

/-- Power-on (R29): construction, then reset. `State.reset` is this at the default parameters, with nothing drawn into
`VRAM` (log entry 5). -/
def powerOn (p : Params) (drawnVram : Memory) (draws : Nat) (inputs : List RawOp) : State :=
  resetBlock (construct p drawnVram draws inputs)

end Sys2Proof.Machine
end

