-- ==== Sys2Proof/Machine/TileDecoder.lean ====
section
/-! DEFINITION. The Tile Decoder (43_tile_decoder.md R90 to R97): the operation as its pseudocode reads memory, and
the pure form of R97. -/

namespace Sys2Proof.Machine

/-- One row of the grid (R93), column 0 leftmost. -/
def rowOf (p1 p2 : Byte) : Vector Pixel 8 :=
  #v[pixelOf p1 p2 0, pixelOf p1 p2 1, pixelOf p1 p2 2, pixelOf p1 p2 3,
     pixelOf p1 p2 4, pixelOf p1 p2 5, pixelOf p1 p2 6, pixelOf p1 p2 7]

/-- The body of the loop of R90 for row `r`: both plane bytes are read, plane 1 first. -/
def readRow (i : Nat) (r : Fin 8) (s : State) : Except Fault (Vector Pixel 8) :=
  match memRead (plane1Addr i r) s with
  | .error e => .error e
  | .ok p1 =>
    match memRead (plane2Addr i r) s with
    | .error e => .error e
    | .ok p2 => .ok (rowOf p1 p2)

/-- The loop of R90 over the rows 0 to 7, in that order. -/
def readGrid (i : Nat) (s : State) : Except Fault Grid := do
  let r0 ← readRow i 0 s
  let r1 ← readRow i 1 s
  let r2 ← readRow i 2 s
  let r3 ← readRow i 3 s
  let r4 ← readRow i 4 s
  let r5 ← readRow i 5 s
  let r6 ← readRow i 6 s
  let r7 ← readRow i 7 s
  return #v[r0, r1, r2, r3, r4, r5, r6, r7]

/-- `DECODE_TILE` (R90): the range check first; no state of the block is written (R95). -/
def execDecodeTile (i : Nat) (s : State) : Result :=
  if tileInRange i then orFault (readGrid i s) fun t => .next (s.pushAnswer (.tile t))
  else raiseOutOfRange i s

/-- The pure decoder of R97: `decode16(b)[r][c] = b[8+r][7-c] * 2 + b[r][7-c]`. -/
def decode16 (b : Vector Byte 16) : Grid :=
  #v[rowOf b[0] b[8], rowOf b[1] b[9], rowOf b[2] b[10], rowOf b[3] b[11],
     rowOf b[4] b[12], rowOf b[5] b[13], rowOf b[6] b[14], rowOf b[7] b[15]]

/-- `VRAM[16*i .. 16*i+15]` (R97). -/
def tileBytes (i : Nat) (s : State) : Vector Byte 16 :=
  Vector.ofFn fun k => s.vramByte (BitVec.ofNat 16 (16 * i + k))

end Sys2Proof.Machine
end

