-- ==== Sys2Proof/Machine/Dispatch.lean ====
section
/-! DEFINITION. One arm per constructor of `Instr`. -/

namespace Sys2Proof.Machine

def exec (i : Instr) (s : State) : Host.Outcome State Fault Refusal :=
  match i with
  | .rdCtrl => Sys2Proof.Machine.execRdCtrl s
  | .rdR1 => Sys2Proof.Machine.execRdR1 s
  | .rdStatus => Sys2Proof.Machine.execRdStatus s
  | .rdR3 => Sys2Proof.Machine.execRdR3 s
  | .rdR4 => Sys2Proof.Machine.execRdR4 s
  | .rdScroll => Sys2Proof.Machine.execRdScroll s
  | .rdAddr => Sys2Proof.Machine.execRdAddr s
  | .rdData => Sys2Proof.Machine.execRdData s
  | .wrCtrl d => Sys2Proof.Machine.execWrCtrl d s
  | .wrR1 d => Sys2Proof.Machine.execWrR1 d s
  | .wrStatus d => Sys2Proof.Machine.execWrStatus d s
  | .wrR3 d => Sys2Proof.Machine.execWrR3 d s
  | .wrR4 d => Sys2Proof.Machine.execWrR4 d s
  | .wrScroll d => Sys2Proof.Machine.execWrScroll d s
  | .wrAddr b => Sys2Proof.Machine.execWrAddr b s
  | .wrData d => Sys2Proof.Machine.execWrData d s
  | .rdUnmapped a => Sys2Proof.Machine.execRdUnmapped a s
  | .wrUnmapped a d => Sys2Proof.Machine.execWrUnmapped a d s
  | .reset => Sys2Proof.Machine.execReset s
  | .statusEvent setMask clrMask => Sys2Proof.Machine.execStatusEvent setMask clrMask s
  | .tick => Sys2Proof.Machine.execTick s
  | .decodeTile n => Sys2Proof.Machine.execDecodeTile n s
  | .reservedHost c => Sys2Proof.Machine.execReservedHost c s

end Sys2Proof.Machine
end

