-- ==== Sys2Proof/Machine/Step.lean ====
section
/-! DEFINITION. One step: the next pending operation, decoded and performed as one atomic step (00_scope.md R1). -/

namespace Sys2Proof.Machine

/-- The first pending operation is taken, decoded under the parameters and performed. With none pending nothing
happens: the block does nothing of its own and never halts by itself (R14; log entry 6). -/
def step (s : State) : Host.Outcome State Fault Refusal :=
  match s.inputs with
  | [] => .next s
  | op :: rest => exec (decode s.params op) { s with inputs := rest }

/-- `s` with the table's word in front of its pending operations, so that the next step performs it; a number that is
no word of its format leaves `s` as it is (log entry 8). -/
def State.withFetchWord (s : State) (nbits w : Nat) : State :=
  match rawOfTable nbits w with
  | .ok op => { s with inputs := op :: s.inputs }
  | .error _ => s

end Sys2Proof.Machine
end

