-- ==== Sys2Proof/Machine/Adapter.lean ====
section
/-! DEFINITION. The interface of the Diagnostic Renderer Adapter as the core consumes it (44_renderer_adapter.md R98 to
R100). No operation of the block calls it (R101). -/

namespace Sys2Proof.Machine

/-- The three calls of R98. A drawn pixel carries its index 0..3 and the colour it was mapped to (DESIGN CHOICE, log
entry 14: safe). No rule gives `x` and `y` a type or a range: unbounded natural numbers here (DESIGN CHOICE, log entry
19: safe). -/
inductive AdapterCall
  | clear
  | drawPixel (x y : Nat) (colorIndex : Fin 4) (colour : Colour)
  | present
deriving DecidableEq, Repr

/-- The guard of R100: a pixel value is in 0..3, or the run ends with `InvalidPixelValue`. -/
def guardPixel (p : Nat) : Except Fault (Fin 4) :=
  if h : p < 4 then .ok ⟨p, h⟩ else .error (.invalidPixelValue p)

/-- The palette mapping (R99): `DEBUG_PALETTE[p]` after the guard. -/
def mapPixel (p : Nat) : Except Fault Colour := (guardPixel p).map Config.debugPalette

/-- A decoded pixel handed to the adapter (R99): guarded, mapped, drawn at a place given from outside, since R101 gives none
(log entry 19). -/
def handPixel (x y p : Nat) : Except Fault AdapterCall :=
  (guardPixel p).map fun k => .drawPixel x y k (Config.debugPalette k)

/-- What an adapter call does to the block (R98): nothing. -/
def adapterEffect (_c : AdapterCall) (s : State) : State := s

end Sys2Proof.Machine
end

