-- ==== Sys2Proof/Machine/Assembler.lean ====
section
/-! DEFINITION. The assembler syntax of 30_encoding.md R63 and the pseudo-instructions of R64: lines of text, what they
say, and the raw operations they stand for. -/

namespace Sys2Proof.Machine

/-- A line of R63 (the first eight) or a pseudo-instruction of R64. -/
inductive AsmLine
  | rd (r : Offset)
  | wr (r : Offset) (b : Byte)
  | busrd (a : Addr)
  | buswr (a : Addr) (b : Byte)
  | reset
  | sev (setMask clrMask : Byte)
  | tick
  | decodeTile (i : Nat)
  | setaddr (a : Addr)
  | setaddrSync (a : Addr)
  | setinc1
  | setinc32
  | fill (n : Nat) (b : Byte)
deriving DecidableEq, Repr

/-- `SETADDR a` (R64): the high byte, then the low byte. -/
def expandSetaddr (a : Addr) : List RawOp :=
  [.reg (wordT true 6 (a.extractLsb' 8 8)), .reg (wordT true 6 (a.extractLsb' 0 8))]

/-- The operations a line stands for (R63, R64). -/
def expandLine (p : Params) : AsmLine → List RawOp
  | .rd r => [.reg (wordT false r 0)]
  | .wr r b => [.reg (wordT true r b)]
  | .busrd a => [.bus false a 0]
  | .buswr a b => [.bus true a b]
  | .reset => [.host 0b0001 .zero]
  | .sev set clr => [.host 0b0010 ⟨set, clr, 0⟩]
  | .tick => [.host 0b0011 .zero]
  | .decodeTile i => [.host 0b0100 ⟨0, 0, i⟩]
  | .setaddr a => expandSetaddr a
  | .setaddrSync a => .reg (wordT false 2 0) :: expandSetaddr a
  | .setinc1 => [.reg (wordT true 0 0)]
  | .setinc32 => [.reg (wordT true 0 ((1 : Byte) <<< p.ctrlIncBit.val))]
  | .fill n b => List.replicate n (.reg (wordT true 7 b))

/-- The operations of a text's lines, in order. -/
def expandAll (p : Params) (ls : List AsmLine) : List RawOp := ls.flatMap (expandLine p)

/-! ### Reading a line (lexical conventions: log entry 16) -/

/-- A token: a word, or a comma. -/
inductive Token
  | word (cs : List Char)
  | comma
deriving DecidableEq, Repr

/-- A finished word in front of the tokens after it; an empty one is none. -/
def Token.push (acc : List Char) (ts : List Token) : List Token :=
  match acc with
  | [] => ts
  | _ :: _ => .word acc.reverse :: ts

/-- The tokens of a line: words stand between blanks and commas, `;` starts a comment. `acc` is the word being read,
backwards. -/
def tokenize : List Char → List Char → List Token
  | [], acc => Token.push acc []
  | c :: cs, acc =>
    if c = ';' then Token.push acc []
    else if c = ' ' ∨ c = '\t' then Token.push acc (tokenize cs [])
    else if c = ',' then Token.push acc (.comma :: tokenize cs [])
    else tokenize cs (c :: acc)

/-- The value of a digit in a base of at most 16. -/
def digitOf (base : Nat) (c : Char) : Option Nat :=
  let n := c.toNat
  let v := if 48 ≤ n ∧ n ≤ 57 then n - 48
    else if 65 ≤ n ∧ n ≤ 70 then n - 55
    else if 97 ≤ n ∧ n ≤ 102 then n - 87
    else 16
  if v < base then some v else none

/-- Digits read on from a value. -/
def digitsOf (base : Nat) : List Char → Nat → Option Nat
  | [], v => some v
  | c :: cs, v =>
    match digitOf base c with
    | some d => digitsOf base cs (v * base + d)
    | none => none

/-- A number: decimal, or hexadecimal after `0x` (R63). -/
def numberOf : List Char → Option Nat
  | [] => none
  | ['0', 'x'] => none
  | '0' :: 'x' :: cs => digitsOf 16 cs 0
  | c :: cs => digitsOf 10 (c :: cs) 0

/-- A number of at most `n` bits. -/
def wordOf (n : Nat) (cs : List Char) : Option (BitVec n) :=
  match numberOf cs with
  | some v => if v < 2 ^ n then some (BitVec.ofNat n v) else none
  | none => none

/-- `<reg>` (R63): a register's name, or its offset number. -/
def regOf (cs : List Char) : Option Offset :=
  if cs = ['C', 'T', 'R', 'L'] then some 0
  else if cs = ['R', '1'] then some 1
  else if cs = ['S', 'T', 'A', 'T', 'U', 'S'] then some 2
  else if cs = ['R', '3'] then some 3
  else if cs = ['R', '4'] then some 4
  else if cs = ['S', 'C', 'R', 'O', 'L', 'L'] then some 5
  else if cs = ['A', 'D', 'D', 'R'] then some 6
  else if cs = ['D', 'A', 'T', 'A'] then some 7
  else wordOf 3 cs

/-- A line whose operation takes no operand. -/
def lineOf0 (op : List Char) : Option AsmLine :=
  if op = ['R', 'E', 'S', 'E', 'T'] then some .reset
  else if op = ['T', 'I', 'C', 'K'] then some .tick
  else if op = ['S', 'E', 'T', 'I', 'N', 'C', '1'] then some .setinc1
  else if op = ['S', 'E', 'T', 'I', 'N', 'C', '3', '2'] then some .setinc32
  else none

/-- A line whose operation takes one operand. -/
def lineOf1 (op x : List Char) : Option AsmLine :=
  if op = ['R', 'D'] then (regOf x).map .rd
  else if op = ['B', 'U', 'S', 'R', 'D'] then (wordOf 16 x).map .busrd
  else if op = ['D', 'E', 'C', 'O', 'D', 'E'] then (numberOf x).map .decodeTile
  else if op = ['S', 'E', 'T', 'A', 'D', 'D', 'R'] then (wordOf 16 x).map .setaddr
  else if op = ['S', 'E', 'T', 'A', 'D', 'D', 'R', '_', 'S', 'Y', 'N', 'C'] then (wordOf 16 x).map .setaddrSync
  else none

/-- A line whose operation takes two operands. -/
def lineOf2 (op x y : List Char) : Option AsmLine :=
  if op = ['W', 'R'] then (regOf x).bind fun r => (wordOf 8 y).map (.wr r)
  else if op = ['B', 'U', 'S', 'W', 'R'] then (wordOf 16 x).bind fun a => (wordOf 8 y).map (.buswr a)
  else if op = ['S', 'E', 'V'] then (wordOf 8 x).bind fun m => (wordOf 8 y).map (.sev m)
  else if op = ['F', 'I', 'L', 'L'] then (numberOf x).bind fun n => (wordOf 8 y).map (.fill n)
  else none

/-- A line of text: nothing (blank or only a comment), one line of the syntax, or `none` where R63 and R64 give no such
line. -/
def parseLine (cs : List Char) : Option (List AsmLine) :=
  match tokenize cs [] with
  | [] => some []
  | [.word op] => (lineOf0 op).map ([·])
  | [.word op, .word x] => (lineOf1 op x).map ([·])
  | [.word op, .word x, .comma, .word y] => (lineOf2 op x y).map ([·])
  | _ => none

end Sys2Proof.Machine
end

