-- ==== Sys2Proof/Machine/Runs.lean ====
section
/-! DEFINITION. Runs: operations performed one after another (20_memory.md R44), as instructions and as the raw
operations a run of the machine takes from its inputs. -/

namespace Sys2Proof.Machine

/-- Operations performed in order, ending at the first fault or refusal (R14). -/
def execAll : List Instr → State → Result
  | [], s => .next s
  | i :: is, s =>
    match exec i s with
    | .next t => execAll is t
    | .fault e => .fault e
    | .refused r => .refused r

/-- The machine run over a sequence of raw operations placed in front of its inputs: one step each. -/
def runOps (ops : List RawOp) (s : State) : Result :=
  Host.Core.run Sys2Proof.core ops.length { s with inputs := ops ++ s.inputs }

end Sys2Proof.Machine
end

