-- ==== Sys2Proof/Safety.lean ====
section
/-! DEFINITION. What claims are stated in: the invariant of a state, equality of architectural state, and what a run
that neither faults nor is refused is. -/

namespace Sys2Proof.Machine

/-- The invariant every step keeps: parameters in the range of R2, video memory in canonical form and listing only
addresses that exist (R22). -/
abbrev State.Inv (s : State) : Prop :=
  s.params.wf = true ∧ Memory.wf s.vram ∧ ∀ c ∈ s.vram, c.1 < s.params.vramSize

/-- The architectural state agrees: the five elements of R15. -/
abbrev State.sameArch (s t : State) : Prop :=
  s.w = t.w ∧ s.v = t.v ∧ s.status = t.status ∧ s.ctrl = t.ctrl ∧ s.vram = t.vram

/-- The parameter values at which no bus access can fault or be refused: the full video memory (R34) and the scroll
write that has no effect (R75). The defaults of R2 are such. -/
abbrev Params.total (p : Params) : Prop := p.vramSize = 0x10000 ∧ p.scrollPolicy = .noEffect

/-- The outcome is a next state. -/
def isNext : Result → Bool
  | .next _ => true
  | .fault _ => false
  | .refused _ => false

/-- A safe run: every operation of the sequence completes. -/
abbrev SafeRun (ops : List RawOp) (s : State) : Prop := isNext (runOps ops s) = true

end Sys2Proof.Machine
end

