-- ==== Sys2Proof/Certificates/Slice0/Obligations.lean ====
section
/-! DEFINITION. The statements for the provers, from the numbered rules of spec/. Widths: `x.setWidth 12 ||| 0x200` is
the format-T word `0x200 | x`. -/

open Sys2Proof Sys2Proof.Machine

/-! ### Register reads -/

/-- R65: the word, the byte returned, VBLANK cleared, the latch forced high, and nothing else changed. -/
def Obligations.RdStatusReturnsByteClearsVblankForcesHigh : Prop :=
  (∀ (p : Params) (x : Byte), decode p (.reg (0x200 ||| x.setWidth 12)) = .rdStatus) ∧
  ∀ s : State, exec .rdStatus s = .next { s with
    w := .expectHigh
    status := s.status &&& ~~~((1 : Byte) <<< s.params.vblankBit.val)
    answers := .busByte (match s.params.statusReadValue with
      | .preClear => s.status
      | .postClear => s.status &&& ~~~((1 : Byte) <<< s.params.vblankBit.val)) :: s.answers }

/-- R66: the byte at V is returned and V advances; past VRAM_SIZE the fault; under NO_EFFECT a draw. (NO_EFFECT past
VRAM_SIZE is in DataPortAccessPastVramSizeFaults.) -/
def Obligations.RdDataReturnsByteAtVThenAdvances : Prop :=
  (∀ (p : Params) (x : Byte), decode p (.reg (0x700 ||| x.setWidth 12)) = .rdData) ∧
  ∀ s : State,
    (s.params.dataReadMode = .directIncrement → s.vAddr.toNat < s.params.vramSize →
      exec .rdData s = .next { s with
        v := .ofAddr (s.vAddr + if s.ctrl.getLsbD s.params.ctrlIncBit then 32 else 1)
        answers := .busByte (Memory.read s.vram s.vAddr.toNat) :: s.answers }) ∧
    (s.params.dataReadMode = .directIncrement → s.params.vramSize ≤ s.vAddr.toNat →
      exec .rdData s = .fault (.vramOutOfRange s.vAddr)) ∧
    (s.params.dataReadMode = .noEffect → s.vAddr.toNat < s.params.vramSize →
      exec .rdData s = .next { s with
        draws := s.draws + 1
        answers := .busByte (Config.freeByte s.draws) :: s.answers })

/-- A data-port access with V >= VRAM_SIZE is the fault VramOutOfRange(V), a read under both values of DATA_READ_MODE
and a write, whatever its byte; with the full video memory neither faults. That the read faults under NO_EFFECT too is
the model's reading of R48, R105 and R66's exceptions line over R66's pseudocode (DEDUCED, log entry 17). -/
def Obligations.DataPortAccessPastVramSizeFaults : Prop :=
  ∀ (s : State) (d : Byte),
    (s.params.vramSize ≤ s.vAddr.toNat →
      exec .rdData s = .fault (.vramOutOfRange s.vAddr) ∧ exec (.wrData d) s = .fault (.vramOutOfRange s.vAddr)) ∧
    (s.params.vramSize = 0x10000 → ∃ t u, exec .rdData s = .next t ∧ exec (.wrData d) s = .next u)

/-- R67 to R72: a read at offset 0, 1, 3, 4, 5 or 6 returns a draw and writes no state of the block. -/
def Obligations.UnreadableRegisterReadsReturnDraw : Prop :=
  (∀ (p : Params) (x : Byte),
    decode p (.reg (0x000 ||| x.setWidth 12)) = .rdCtrl ∧ decode p (.reg (0x100 ||| x.setWidth 12)) = .rdR1 ∧
    decode p (.reg (0x300 ||| x.setWidth 12)) = .rdR3 ∧ decode p (.reg (0x400 ||| x.setWidth 12)) = .rdR4 ∧
    decode p (.reg (0x500 ||| x.setWidth 12)) = .rdScroll ∧ decode p (.reg (0x600 ||| x.setWidth 12)) = .rdAddr) ∧
  ∀ (s : State) (i : Instr), i ∈ [Instr.rdCtrl, .rdR1, .rdR3, .rdR4, .rdScroll, .rdAddr] →
    exec i s = .next { s with
      draws := s.draws + 1
      answers := .busByte (Config.freeByte s.draws) :: s.answers }

/-- Of two states that agree on the parameters, STATUS, the draws, the answers so far and the byte at V, every bus
operation that completes in both leaves the same answers: W, V, CTRL and the rest of VRAM are not readable. -/
def Obligations.BusOperationsDoNotReadLatch : Prop :=
  ∀ (s t s' t' : State) (i : Instr), i.agent = .busMaster →
    s.params = t.params → s.status = t.status → s.draws = t.draws → s.answers = t.answers →
    Memory.read s.vram s.vAddr.toNat = Memory.read t.vram t.vAddr.toNat →
    exec i s = .next s' → exec i t = .next t' → s'.answers = t'.answers

/-! ### Register writes -/

/-- R74: the byte is stored whole, nothing else changes. -/
def Obligations.WrCtrlStoresByte : Prop :=
  (∀ (p : Params) (d : Byte), decode p (.reg (0x800 ||| d.setWidth 12)) = .wrCtrl d) ∧
  ∀ (s : State) (d : Byte), exec (.wrCtrl d) s = .next { s with ctrl := d }

/-- R75: no effect under the default policy, a refusal under REFUSE. -/
def Obligations.WrScrollFollowsPolicy : Prop :=
  (∀ (p : Params) (d : Byte), decode p (.reg (0xD00 ||| d.setWidth 12)) = .wrScroll d) ∧
  ∀ (s : State) (d : Byte),
    (s.params.scrollPolicy = .noEffect → exec (.wrScroll d) s = .next s) ∧
    (s.params.scrollPolicy = .refuse → exec (.wrScroll d) s = .refused .scrollWrite)

/-- R76, R84, R58: the half that W names is written, the other half kept, W toggled, nothing else changed. -/
def Obligations.WrAddrWritesOneHalfAndToggles : Prop :=
  (∀ (p : Params) (b : Byte), decode p (.reg (0xE00 ||| b.setWidth 12)) = .wrAddr b) ∧
  ∀ (s : State) (b : Byte), ∃ t, exec (.wrAddr b) s = .next t ∧
    (s.w = .expectHigh → t.vAddr = (b.setWidth 16 <<< 8) ||| (s.vAddr &&& 0x00FF) ∧ t.w = .expectLow) ∧
    (s.w = .expectLow → t.vAddr = (s.vAddr &&& 0xFF00) ||| b.setWidth 16 ∧ t.w = .expectHigh) ∧
    t = { s with v := t.v, w := t.w }

/-- R77: the byte is stored at V before the increment, every other byte and every other register stays, V advances;
past VRAM_SIZE the fault. -/
def Obligations.WrDataStoresAtVThenAdvances : Prop :=
  (∀ (p : Params) (d : Byte), decode p (.reg (0xF00 ||| d.setWidth 12)) = .wrData d) ∧
  ∀ (s : State) (d : Byte), Memory.wf s.vram →
    (s.vAddr.toNat < s.params.vramSize → ∃ t, exec (.wrData d) s = .next t ∧
      t.vAddr = s.vAddr + (if s.ctrl.getLsbD s.params.ctrlIncBit then 32 else 1) ∧
      Memory.read t.vram s.vAddr.toNat = d ∧
      (∀ a, a ≠ s.vAddr.toNat → Memory.read t.vram a = Memory.read s.vram a) ∧
      Memory.wf t.vram ∧
      t = { s with v := t.v, vram := t.vram }) ∧
    (s.params.vramSize ≤ s.vAddr.toNat → exec (.wrData d) s = .fault (.vramOutOfRange s.vAddr))

/-- R78 to R81: writes at offsets 2, 1, 3 and 4 are discarded. -/
def Obligations.DiscardedWritesChangeNothing : Prop :=
  (∀ (p : Params) (d : Byte),
    decode p (.reg (0xA00 ||| d.setWidth 12)) = .wrStatus d ∧ decode p (.reg (0x900 ||| d.setWidth 12)) = .wrR1 d ∧
    decode p (.reg (0xB00 ||| d.setWidth 12)) = .wrR3 d ∧ decode p (.reg (0xC00 ||| d.setWidth 12)) = .wrR4 d) ∧
  ∀ (s : State) (d : Byte) (i : Instr), i ∈ [Instr.wrStatus d, .wrR1 d, .wrR3 d, .wrR4 d] → exec i s = .next s

/-- R73, R82, R43: an access at an unmapped address changes nothing, answers nothing and is no error. -/
def Obligations.UnmappedAccessesChangeNothing : Prop :=
  (∀ (p : Params) (a : Addr) (d : Byte), p.regSelect a = none →
    decode p (.bus false a d) = .rdUnmapped a ∧ decode p (.bus true a d) = .wrUnmapped a d) ∧
  ∀ (s : State) (a : Addr) (d : Byte), exec (.rdUnmapped a) s = .next s ∧ exec (.wrUnmapped a d) s = .next s

/-- The accesses the table of 20_memory.md section 4 calls idempotent leave, done twice, the state they left done once, and each of the
others has a state where the second changes more. -/
def Obligations.IdempotentAccesses : Prop :=
  (∀ (d : Byte) (a : Addr) (i : Instr),
    i ∈ [Instr.rdCtrl, .rdR1, .rdR3, .rdR4, .rdScroll, .rdAddr, .wrCtrl d, .wrR1 d, .wrStatus d, .wrR3 d, .wrR4 d,
      .wrScroll d, .rdUnmapped a, .wrUnmapped a d] →
    ∀ s t : State, s.params.scrollPolicy = .noEffect → exec i s = .next t →
      ∃ u, exec i t = .next u ∧ State.sameArch t u) ∧
  (∃ s t u, exec .rdStatus s = .next t ∧ exec .rdStatus t = .next u ∧ t.answers.head? ≠ u.answers.head?) ∧
  (∃ s t u, exec .rdData s = .next t ∧ exec .rdData t = .next u ∧ ¬ State.sameArch t u) ∧
  (∀ b, ∃ s t u, exec (.wrAddr b) s = .next t ∧ exec (.wrAddr b) t = .next u ∧ ¬ State.sameArch t u) ∧
  (∀ d, ∃ s t u, exec (.wrData d) s = .next t ∧ exec (.wrData d) t = .next u ∧ ¬ State.sameArch t u)

/-! ### The latch -/

/-- R87: the complete transition table of `(W, V)`. -/
def Obligations.LatchTransitionTable : Prop :=
  ∀ (s t : State) (i : Instr), exec i s = .next t →
    match i with
    | .wrAddr b =>
      (s.w = .expectHigh → t.w = .expectLow ∧ t.v = ⟨b, s.v.lo⟩) ∧
      (s.w = .expectLow → t.w = .expectHigh ∧ t.v = ⟨s.v.hi, b⟩)
    | .rdStatus => t.w = .expectHigh ∧ t.v = s.v
    | .rdData => t.w = s.w ∧ t.vAddr = (match s.params.dataReadMode with
        | .directIncrement => s.vAddr + s.inc
        | .noEffect => s.vAddr)
    | .wrData _ => t.w = s.w ∧ t.vAddr = s.vAddr + s.inc
    | .reset => t.w = .expectHigh ∧ t.v = ⟨Config.freeByte s.draws, Config.freeByte (s.draws + 1)⟩
    | _ => t.w = s.w ∧ t.v = s.v

/-- The sequences of 42_latch_state_machine.md R89 (a), (b), (d), as runs of the machine over the two-write sequence. -/
def Obligations.AddressSequenceGivesAddress : Prop :=
  ∀ (s : State) (hi lo : Byte),
    (s.w = .expectHigh → ∃ t, runOps [encode (.wrAddr hi), encode (.wrAddr lo)] s = .next t ∧
      t.vAddr = (hi.setWidth 16 <<< 8) ||| lo.setWidth 16 ∧ t.w = .expectHigh) ∧
    (∃ t, runOps [encode (.wrAddr hi), encode .rdStatus] s = .next t ∧ t.w = .expectHigh) ∧
    (∃ t, runOps [encode .rdStatus, encode (.wrAddr hi), encode (.wrAddr lo)] s = .next t ∧
      t.vAddr = (hi.setWidth 16 <<< 8) ||| lo.setWidth 16 ∧ t.w = .expectHigh)

/-- The law of 42_latch_state_machine.md R89 (c): a sequence of N data-port accesses, reads and writes in any mix, leaves `V = (a + N*INC) mod 65536`. -/
def Obligations.DataPortAccessesAdvanceByMultiples : Prop :=
  ∀ (ops : List Instr) (s : State), s.params.vramSize = 0x10000 → s.params.dataReadMode = .directIncrement →
    (∀ i ∈ ops, i = .rdData ∨ ∃ d, i = .wrData d) →
    ∃ t, execAll ops s = .next t ∧
      t.vAddr.toNat = (s.vAddr.toNat + ops.length * (if s.ctrl.getLsbD s.params.ctrlIncBit then 32 else 1)) % 65536 ∧
      t.w = s.w ∧ t.ctrl = s.ctrl ∧ t.status = s.status

/-- R127: between status reads and resets W depends on the parity of the number of Video Address writes, whatever
other operations stand between them. -/
def Obligations.PhaseIsParityOfAddressWrites : Prop :=
  ∀ (ops : List Instr) (s t : State), (∀ i ∈ ops, i ≠ .rdStatus ∧ i ≠ .reset) → execAll ops s = .next t →
    (ops.countP (fun i => match i with | .wrAddr _ => true | _ => false)) % 2 = (if t.w = s.w then 0 else 1)

/-- R123: a data-port access after one Video Address write uses the half-updated V. -/
def Obligations.HalfWrittenAddressIsUsed : Prop :=
  ∀ (s : State) (b d : Byte), s.w = .expectHigh → Memory.wf s.vram → s.params.vramSize = 0x10000 →
    ∃ t u, exec (.wrAddr b) s = .next t ∧ t.w = .expectLow ∧
      t.vAddr = (b.setWidth 16 <<< 8) ||| (s.vAddr &&& 0x00FF) ∧
      exec (.wrData d) t = .next u ∧
      Memory.read u.vram ((b.setWidth 16 <<< 8) ||| (s.vAddr &&& 0x00FF)).toNat = d ∧
      u.w = .expectLow ∧
      (s.params.dataReadMode = .directIncrement → ∃ x, exec .rdData t = .next x ∧ x.answers =
        .busByte (Memory.read s.vram ((b.setWidth 16 <<< 8) ||| (s.vAddr &&& 0x00FF)).toNat) :: s.answers)

/-- R124: after a status read between the two writes the second write is a high byte. -/
def Obligations.StatusReadCorruptsHalfBuiltAddress : Prop :=
  ∀ (s : State) (hi lo : Byte), s.w = .expectHigh →
    ∃ t, runOps [encode (.wrAddr hi), encode .rdStatus, encode (.wrAddr lo)] s = .next t ∧
      t.vAddr = (lo.setWidth 16 <<< 8) ||| (s.vAddr &&& 0x00FF) ∧ t.w = .expectLow

/-- Status events and ticks of the frame-timing source, any number of them between the two Video Address writes, do not
disturb the address sequence. That the source issues nothing else, no reserved host code either, is log entry 18. -/
def Obligations.FrameEventsDoNotDisturbAddressSequence : Prop :=
  ∀ (evs : List Instr) (s : State) (hi lo : Byte), s.w = .expectHigh → (∀ i ∈ evs, i.agent = .frameTiming) →
    ∃ t, execAll (.wrAddr hi :: evs ++ [.wrAddr lo]) s = .next t ∧
      t.vAddr = (hi.setWidth 16 <<< 8) ||| lo.setWidth 16 ∧ t.w = .expectHigh ∧ t.vram = s.vram ∧ t.ctrl = s.ctrl

/-! ### Status -/

/-- R31: a status read returns VBLANK (the cleared one under POST_CLEAR, R65) and clears it, a status event sets or
clears it as its masks say, reset sets it; nothing else changes it; and what an operation other than a status read
answers, and the rest of what it does, is the same whatever STATUS holds. -/
def Obligations.VblankReadersAndWriters : Prop :=
  (∀ s : State,
    (∃ t b, exec .rdStatus s = .next t ∧ t.status.getLsbD s.params.vblankBit = false ∧
      t.answers = .busByte b :: s.answers ∧
      b.getLsbD s.params.vblankBit = (match s.params.statusReadValue with
        | .preClear => s.status.getLsbD s.params.vblankBit
        | .postClear => false)) ∧
    (∀ m c, ∃ t, exec (.statusEvent m c) s = .next t ∧ t.status.getLsbD s.params.vblankBit =
      if m.getLsbD s.params.vblankBit then true
      else if c.getLsbD s.params.vblankBit then false
      else s.status.getLsbD s.params.vblankBit) ∧
    (∃ t, exec .reset s = .next t ∧ t.status.getLsbD s.params.vblankBit = true)) ∧
  (∀ (s t : State) (i : Instr), exec i s = .next t →
    t.status.getLsbD t.params.vblankBit ≠ s.status.getLsbD s.params.vblankBit →
    (i = .rdStatus ∧ t.status.getLsbD t.params.vblankBit = false) ∨ (∃ m c, i = .statusEvent m c) ∨
    (i = .reset ∧ t.status.getLsbD t.params.vblankBit = true)) ∧
  (∀ (s t : State) (i : Instr) (x : Byte), i ≠ .rdStatus → exec i s = .next t →
    ∃ y, exec i { s with status := x } = .next { t with status := y })

/-- R125: with no status event and no reset between them, a second status read returns VBLANK = 0, whatever else was
performed between. -/
def Obligations.SecondStatusReadReturnsVblankClear : Prop :=
  ∀ (ops : List Instr) (s t : State), (∀ i ∈ ops, i ≠ .reset ∧ ∀ m c, i ≠ .statusEvent m c) →
    execAll (.rdStatus :: ops ++ [.rdStatus]) s = .next t →
    ∃ b rest, t.answers = .busByte b :: rest ∧ b.getLsbD s.params.vblankBit = false

/-- R102: set wins over clear, every other bit and every other element stays. -/
def Obligations.StatusEventSetsAndClears : Prop :=
  (∀ (p : Params) (o : HostOperands), decode p (.host 0b0010 o) = .statusEvent o.setMask o.clrMask) ∧
  ∀ (s : State) (m c : Byte), exec (.statusEvent m c) s = .next { s with status := (s.status &&& ~~~c) ||| m } ∧
    ∀ n, n < 8 → ((s.status &&& ~~~c) ||| m).getLsbD n =
      (if m.getLsbD n then true else if c.getLsbD n then false else s.status.getLsbD n)

/-- R104: a tick changes nothing. -/
def Obligations.TickChangesNothing : Prop :=
  (∀ (p : Params) (o : HostOperands), decode p (.host 0b0011 o) = .tick) ∧
  ∀ s : State, exec .tick s = .next s

/-! ### Reset and power-on -/

/-- R120: W, V, STATUS after RESET, and that CTRL, VRAM and everything else stay. -/
def Obligations.ResetSetsLatchAndStatus : Prop :=
  (∀ (p : Params) (o : HostOperands), decode p (.host 0b0001 o) = .reset) ∧
  ∀ s : State, exec .reset s = .next { s with
    w := .expectHigh
    v := ⟨Config.freeByte s.draws, Config.freeByte (s.draws + 1)⟩
    status := (1 : Byte) <<< s.params.vblankBit.val
    draws := s.draws + 2 }

/-- R29: power-on is construction, with CTRL and VRAM drawn, and then reset. -/
def Obligations.PowerOnIsConstructionThenReset : Prop :=
  ∀ (p : Params) (m : Memory) (n : Nat) (ops : List RawOp),
    exec .reset (construct p m n ops) = .next (powerOn p m n ops) ∧
    (powerOn p m n ops).w = .expectHigh ∧ (powerOn p m n ops).status = (1 : Byte) <<< p.vblankBit.val ∧
    (powerOn p m n ops).v = ⟨Config.freeByte (n + 1), Config.freeByte (n + 2)⟩ ∧
    (powerOn p m n ops).ctrl = Config.freeByte n ∧ (powerOn p m n ops).vram = m

/-- The model's State.reset: the values R28 gives for W and STATUS at the default parameters, and the model's own
choices of log entries 4 (V and CTRL are draws), 5 (VRAM reads 0x00) and 6 (nothing pending). -/
def Obligations.ResetStateIsPowerOn : Prop :=
  State.reset = powerOn Params.defaults [] 0 [] ∧ State.reset.w = .expectHigh ∧ State.reset.status = 0x80 ∧
  (∀ a, Memory.read State.reset.vram a = 0) ∧ step State.reset = .next State.reset

/-- The boot order of R122, from every power-on state: the data-port write goes to the address written, and the next
one INC further, in either order of the first two steps. -/
def Obligations.BootOrderReachesAddress : Prop :=
  ∀ (p : Params) (m : Memory) (n : Nat) (c hi lo d : Byte), p.vramSize = 0x10000 → Memory.wf m →
    ∀ ops ∈ [[Instr.wrCtrl c, .rdStatus, .wrAddr hi, .wrAddr lo, .wrData d],
             [Instr.rdStatus, .wrAddr hi, .wrAddr lo, .wrCtrl c, .wrData d]],
    ∃ t, execAll ops (powerOn p m n []) = .next t ∧
      Memory.read t.vram ((hi.setWidth 16 <<< 8) ||| lo.setWidth 16).toNat = d ∧
      t.vAddr = ((hi.setWidth 16 <<< 8) ||| lo.setWidth 16) + (if c.getLsbD p.ctrlIncBit then 32 else 1)

/-! ### The Tile Decoder and the adapter -/

/-- R90 to R93, R106: the grid of an index up to 511, pixel by pixel, and OutOfRange above; nothing else changes. -/
def Obligations.DecodeTileAnswersGridOrOutOfRange : Prop :=
  (∀ (p : Params) (o : HostOperands), decode p (.host 0b0100 o) = .decodeTile o.tileIndex) ∧
  ∀ (s : State) (i : Nat), s.params.wf = true →
    (16 * i + 16 ≤ 0x2000 → ∃ g : Grid,
      exec (.decodeTile i) s = .next { s with answers := .tile g :: s.answers } ∧
      ∀ r c : Fin 8, (g[r][c]).toNat =
        2 * ((Memory.read s.vram (16 * i + 8 + r)).getLsbD (7 - c)).toNat +
        ((Memory.read s.vram (16 * i + r)).getLsbD (7 - c)).toNat) ∧
    (16 * i + 16 > 0x2000 → exec (.decodeTile i) s = .next { s with answers := .outOfRange i :: s.answers })

/-- R97: in range the operation answers the pure decoder's grid of the sixteen bytes. -/
def Obligations.DecodeTileIsPureDecoderOfBytes : Prop :=
  (∀ (b : Vector Byte 16) (r c : Fin 8), ((decode16 b)[r][c]).toNat =
    (b[8 + r.val].getLsbD (7 - c)).toNat * 2 + (b[r.val].getLsbD (7 - c)).toNat) ∧
  ∀ (s : State) (i : Nat), s.params.wf = true → i ≤ 511 →
    exec (.decodeTile i) s = .next { s with
      answers := .tile (decode16 (Vector.ofFn fun k : Fin 16 => Memory.read s.vram (16 * i + k))) :: s.answers }

/-- R61: where the tile of an index lies, by pattern table. -/
def Obligations.TileIndexSelectsPatternTable : Prop :=
  ∀ (s : State) (i : Nat), s.params.wf = true →
    (i ≤ 255 → exec (.decodeTile i) s = .next { s with
      answers := .tile (decode16 (Vector.ofFn fun k : Fin 16 => Memory.read s.vram (16 * i + k))) :: s.answers }) ∧
    (256 ≤ i → i ≤ 511 → exec (.decodeTile i) s = .next { s with
      answers := .tile (decode16 (Vector.ofFn fun k : Fin 16 =>
        Memory.read s.vram (0x1000 + 16 * (i - 256) + k))) :: s.answers }) ∧
    (512 ≤ i → exec (.decodeTile i) s = .next { s with answers := .outOfRange i :: s.answers })

/-- R95: no state of the block is written, and the answer depends on the tile's sixteen bytes only. -/
def Obligations.DecodeTileIsPure : Prop :=
  (∀ (s t : State) (i : Nat), exec (.decodeTile i) s = .next t →
    State.sameArch s t ∧ t.params = s.params ∧ t.draws = s.draws ∧ t.inputs = s.inputs ∧
    ∃ x u, t.answers = x :: s.answers ∧ exec (.decodeTile i) t = .next u ∧ u.answers = x :: x :: s.answers) ∧
  (∀ (s t s' t' : State) (i : Nat), s.params = t.params →
    (∀ k, k < 16 → Memory.read s.vram (16 * i + k) = Memory.read t.vram (16 * i + k)) →
    exec (.decodeTile i) s = .next s' → exec (.decodeTile i) t = .next t' →
    s'.answers.head? = t'.answers.head?)

/-- A data-port write below 0x2000 changes the byte the decoder reads, and one from 0x2000 up changes no decode. -/
def Obligations.DataPortWritesReachDecoder : Prop :=
  ∀ (s t : State) (d : Byte), State.Inv s → exec (.wrData d) s = .next t →
    (s.vAddr.toNat < 0x2000 →
      exec (.decodeTile (s.vAddr.toNat / 16)) t = .next { t with
        answers := .tile (decode16 (Vector.ofFn fun k : Fin 16 =>
          if k.val = s.vAddr.toNat % 16 then d
          else Memory.read s.vram (16 * (s.vAddr.toNat / 16) + k))) :: t.answers }) ∧
    (0x2000 ≤ s.vAddr.toNat → ∀ i x, exec (.decodeTile i) s = .next { s with answers := x :: s.answers } →
      exec (.decodeTile i) t = .next { t with answers := x :: t.answers })

/-- A pixel value in 0..3 is mapped through the palette, any other is the fault InvalidPixelValue, which no pixel of a
decoded tile reaches (44_renderer_adapter.md). That DrawPixel carries both the index and the colour (log entry 14), and
that its x and y are any natural numbers (log entry 19), is the model's choice. -/
def Obligations.PaletteMappingIsGuarded : Prop :=
  (∀ k : Fin 4, mapPixel k = .ok (Config.debugPalette k)) ∧
  (∀ p, 4 ≤ p → mapPixel p = .error (.invalidPixelValue p)) ∧
  (∀ (s t : State) (i : Nat) (g : Grid), exec (.decodeTile i) s = .next t → t.answers = .tile g :: s.answers →
    ∀ (r c : Fin 8) (x y : Nat), ∃ k : Fin 4, k.val = (g[r][c]).toNat ∧
      handPixel x y (g[r][c]).toNat = .ok (.drawPixel x y k (Config.debugPalette k)))

/-- R107: InvalidPixelValue is the fault of mapping a value above 3, and no run of the machine, from any state and of
any length, faults with it. -/
def Obligations.NoRunReachesInvalidPixelValue : Prop :=
  (∀ p, 4 ≤ p → mapPixel p = .error (.invalidPixelValue p)) ∧
  ∀ (n : Nat) (s : State) (p : Nat), Host.Core.run Sys2Proof.core n s ≠ .fault (.invalidPixelValue p)

/-! ### Errors and completion -/

/-- The table of errors of 60_exceptions.md section 1: each exactly when its row says, with what it records and its
code. That a data read faults under NO_EFFECT too is the model's reading (DEDUCED, log entry 17). -/
def Obligations.CompleteListOfErrors : Prop :=
  ∀ (s : State) (i : Instr), s.params.wf = true →
    (∀ n, (∃ t, exec i s = .next t ∧ t.answers = .outOfRange n :: s.answers) ↔
      i = .decodeTile n ∧ 16 * n + 16 > 0x2000) ∧
    ((∃ e, exec i s = .fault e) ↔
      s.params.vramSize ≤ s.vAddr.toNat ∧ (i = .rdData ∨ ∃ d, i = .wrData d)) ∧
    (∀ e, exec i s = .fault e → e = .vramOutOfRange s.vAddr ∧ e.code = 3) ∧
    ((∃ r, exec i s = .refused r) ↔
      (s.params.scrollPolicy = .refuse ∧ ∃ d, i = .wrScroll d) ∨ ∃ c, i = .reservedHost c) ∧
    (∀ r, exec i s = .refused r → r.code = 4 ∧
      ((r = .scrollWrite ∧ ∃ d, i = .wrScroll d) ∨ ∃ c, r = .reservedHostCode c ∧ i = .reservedHost c)) ∧
    (∀ n, (Answer.outOfRange n).errorCode = some 1) ∧
    (∀ p, ((∃ e, mapPixel p = .error e) ↔ 4 ≤ p) ∧
      ∀ e, mapPixel p = .error e → e = .invalidPixelValue p ∧ e.code = 2)

/-- R108: with the full video memory no run of the machine faults at all. -/
def Obligations.NoFaultWithFullVideoMemory : Prop :=
  ∀ (n : Nat) (s : State), s.params.vramSize = 0x10000 → ∀ e, Host.Core.run Sys2Proof.core n s ≠ .fault e

/-- R109: a reserved host code decodes to RESERVED_HOST and is refused, a scroll write is refused under REFUSE, and
nothing else is. -/
def Obligations.ReservedHostCodesAreRefused : Prop :=
  (∀ (p : Params) (c : BitVec 4) (o : HostOperands) (s : State), c.toNat = 0 ∨ 5 ≤ c.toNat →
    decode p (.host c o) = .reservedHost c ∧ exec (.reservedHost c) s = .refused (.reservedHostCode c)) ∧
  (∀ (s : State) (d : Byte), s.params.scrollPolicy = .refuse → exec (.wrScroll d) s = .refused .scrollWrite) ∧
  (∀ (s : State) (op : RawOp) (r : Refusal), exec (decode s.params op) s = .refused r →
    (s.params.scrollPolicy = .refuse ∧ ∃ d, decode s.params op = .wrScroll d) ∨
    ∃ c o, op = .host c o ∧ (c.toNat = 0 ∨ 5 ≤ c.toNat))

/-- With the full video memory and the scroll write without effect, every sequence of raw operations that holds no
reserved host code runs to its end from every state, and consumes just those operations. -/
def Obligations.EveryOperationSequenceCompletes : Prop :=
  ∀ (ops : List RawOp) (s : State), Params.total s.params →
    (∀ c o, RawOp.host c o ∈ ops → reservedHostCode c = false) →
    ∃ t, runOps ops s = .next t ∧ t.inputs = s.inputs ∧ t.params = s.params

/-! ### Encoding -/

/-- Decoding the encoding of a well-formed operation gives it back, every operand at every value. -/
def Obligations.DecodeOfEncode : Prop :=
  ∀ (p : Params) (i : Instr), i.wf p = true → decode p (encode i) = i

/-- R50, R51: the word of a transaction, and that every 12-bit word is one: a write with its byte, or a read whatever
its DATA bits. -/
def Obligations.RegisterWordLayout : Prop :=
  (∀ (write : Bool) (k : Offset) (d : Byte),
    wordT write k d = (if write then 0x800 else 0x000) ||| (k.setWidth 12 <<< 8) ||| d.setWidth 12) ∧
  ∀ (p : Params) (w : BitVec 12), ∃ (k : Offset) (d : Byte), w.toNat % 0x800 = 0x100 * k.toNat + d.toNat ∧
    (0x800 ≤ w.toNat → decode p (.reg w) = writeAt k d) ∧ (w.toNat < 0x800 → decode p (.reg w) = readAt k)

/-- R49, R52: a bus access is the register transaction of the offset `reg_select` gives, or an unmapped access. -/
def Obligations.BusAccessGoesThroughRegSelect : Prop :=
  ∀ (p : Params) (write : Bool) (a : Addr) (d : Byte),
    (∀ k, p.regSelect a = some k → decode p (.bus write a d) = decode p (.reg (wordT write k d))) ∧
    (p.regSelect a = none → decode p (.bus write a d) = if write then .wrUnmapped a d else .rdUnmapped a)

/-- The default `reg_select` of R2 (decisions D1 and D2 of the spec; the window does not wrap at the top of the bus,
log entry 2): offset `a - REG_BASE` for the eight addresses from REG_BASE, none elsewhere. -/
def Obligations.DefaultWindowSelectsEightOffsets : Prop :=
  ∀ (p : Params) (a : Addr), p.regMap = .window →
    (∀ k, p.regSelect a = some k ↔ a.toNat = p.regBase.toNat + k.toNat) ∧
    (p.regSelect a = none ↔ ¬ (p.regBase.toNat ≤ a.toNat ∧ a.toNat < p.regBase.toNat + 8))

/-- R54: decoding is total, gives a well-formed operation of the format's own list, and no bus access is illegal or
traps where nothing of R105 can. -/
def Obligations.DecodingIsTotal : Prop :=
  (∀ (p : Params) (op : RawOp), (decode p op).wf p = true) ∧
  (∀ (p : Params) (write : Bool) (a : Addr) (d : Byte), (decode p (.bus write a d)).agent = .busMaster) ∧
  (∀ (p : Params) (c : BitVec 4) (o : HostOperands), decode p (.host c o) ∈
    [Instr.reset, .statusEvent o.setMask o.clrMask, .tick, .decodeTile o.tileIndex, .reservedHost c]) ∧
  (∀ (s : State) (write : Bool) (a : Addr) (d : Byte), Params.total s.params →
    ∃ t, exec (decode s.params (.bus write a d)) s = .next t)

/-- The raw form of an operation belongs to the agent that R1 lets issue it; that a reserved host code is the host's is the
model's choice (log entry 18). -/
def Obligations.RawFormBelongsToAgent : Prop :=
  ∀ (p : Params) (i : Instr), i.wf p = true → (encode i).agent = i.agent

/-- Words of spec/95_test_vectors.md decode to the operations they are written for. Reading a table word by its width,
and a bare host code with operands of zeros, is the model's choice (log entry 8). -/
def Obligations.VectorWordsDecode : Prop :=
  decodeTableWord 16 0x200 = some .rdStatus ∧ decodeTableWord 16 0xE21 = some (.wrAddr 0x21) ∧
  decodeTableWord 16 0xFFF = some (.wrData 0xFF) ∧ decodeTableWord 16 0x8FB = some (.wrCtrl 0xFB) ∧
  decodeTableWord 16 0xD10 = some (.wrScroll 0x10) ∧ decodeTableWord 16 0x700 = some .rdData ∧
  decodeTableWord 8 0b0001 = some .reset ∧ decodeTableWord 8 0b0100 = some (.decodeTile 0) ∧
  decodeTableWord 8 0b0101 = some (.reservedHost 5) ∧
  decode Params.defaults (.bus true 0x2006 0x21) = .wrAddr 0x21 ∧
  decode Params.defaults (.bus true 0x2008 0x21) = .wrUnmapped 0x2008 0x21

/-- Each line of the syntax stands for one operation. -/
def Obligations.AssemblerLinesStandForOperations : Prop :=
  ∀ (p : Params) (r : Offset) (b m c : Byte) (a : Addr) (i : Nat),
    (expandLine p (.rd r)).map (decode p) = [readAt r] ∧
    (expandLine p (.wr r b)).map (decode p) = [writeAt r b] ∧
    (expandLine p (.busrd a)).map (decode p) = [decode p (.bus false a 0)] ∧
    (expandLine p (.buswr a b)).map (decode p) = [decode p (.bus true a b)] ∧
    (expandLine p .reset).map (decode p) = [.reset] ∧
    (expandLine p (.sev m c)).map (decode p) = [.statusEvent m c] ∧
    (expandLine p .tick).map (decode p) = [.tick] ∧
    (expandLine p (.decodeTile i)).map (decode p) = [.decodeTile i]

/-- R64: what the pseudo-instructions expand to and what the notes beside them say; "only when" of SETADDR is said for
addresses whose halves differ. -/
def Obligations.PseudoInstructionsDoWhatTheySay : Prop :=
  ∀ (s : State) (a : Addr) (n : Nat) (b : Byte),
    (expandLine s.params (.setaddr a)).map (decode s.params) =
      [.wrAddr (a.extractLsb' 8 8), .wrAddr (a.extractLsb' 0 8)] ∧
    (expandLine s.params (.setaddrSync a)).map (decode s.params) =
      [.rdStatus, .wrAddr (a.extractLsb' 8 8), .wrAddr (a.extractLsb' 0 8)] ∧
    (s.w = .expectHigh → ∃ t, runOps (expandLine s.params (.setaddr a)) s = .next t ∧ t.vAddr = a ∧ t.w = .expectHigh) ∧
    (s.w = .expectLow → a.extractLsb' 8 8 ≠ a.extractLsb' 0 8 →
      ∃ t, runOps (expandLine s.params (.setaddr a)) s = .next t ∧ t.vAddr ≠ a) ∧
    (∃ t, runOps (expandLine s.params (.setaddrSync a)) s = .next t ∧ t.vAddr = a ∧ t.w = .expectHigh ∧
      t.status.getLsbD s.params.vblankBit = false) ∧
    (expandLine s.params .setinc1).map (decode s.params) = [.wrCtrl 0x00] ∧
    (∃ t, runOps (expandLine s.params .setinc1) s = .next t ∧ t.inc = 1) ∧
    (expandLine s.params .setinc32).map (decode s.params) = [.wrCtrl ((1 : Byte) <<< s.params.ctrlIncBit.val)] ∧
    (s.params.ctrlIncBit = 2 → (expandLine s.params .setinc32).map (decode s.params) = [.wrCtrl 0x04]) ∧
    (∃ t, runOps (expandLine s.params .setinc32) s = .next t ∧ t.inc = 32) ∧
    (expandLine s.params (.fill n b)).map (decode s.params) = List.replicate n (.wrData b)

/-- SETADDR from W = ExpectLow: the first byte is taken as the low half and the second as the high half, so V is the
address with its halves the other way round (42_latch_state_machine.md, twice). -/
def Obligations.SetaddrFromExpectLowSwapsHalves : Prop :=
  ∀ (s : State) (a : Addr), s.w = .expectLow →
    ∃ t, runOps (expandLine s.params (.setaddr a)) s = .next t ∧
      t.vAddr = a.extractLsb' 0 8 ++ a.extractLsb' 8 8 ∧ t.w = .expectLow

/-! ### Steps, runs and the whole state -/

/-- A step performs the first pending operation, decoded, on the state without it; with none pending nothing happens
(the second is the model's choice, log entry 6). -/
def Obligations.StepRunsFirstPendingOperation : Prop :=
  (∀ (s : State) (op : RawOp) (rest : List RawOp), s.inputs = op :: rest →
    step s = exec (decode s.params op) { s with inputs := rest }) ∧
  (∀ (s : State) (i : Instr), i.wf s.params = true →
    step { s with inputs := encode i :: s.inputs } = exec i s) ∧
  (∀ s : State, s.inputs = [] → step s = .next s)

/-- The word the table gives is fetched and performed by the very next step. Where a word is placed (in front of the
pending operations, log entry 6) and how it is read (by its width, log entry 8) are the model's choices. -/
def Obligations.FetchedTableWordRuns : Prop :=
  ∀ (s : State) (nbits w : Nat) (i : Instr), s.params = Params.defaults → decodeTableWord nbits w = some i →
    step (s.withFetchWord nbits w) = exec i s

/-- A run of the machine over encoded operations is the operations' meanings performed one after another. -/
def Obligations.RunIsSequenceOfMeanings : Prop :=
  ∀ (ops : List Instr) (s : State), (∀ i ∈ ops, i.wf s.params = true) →
    runOps (ops.map encode) s = execAll ops s

/-- Which operation may write which element (10_state.md section 8), for VRAM byte by byte. RESET is among the writers
of V, as R120 and R87 say and R27 does not (log entry 15). -/
def Obligations.OnlyOwnersWriteEachElement : Prop :=
  ∀ (s t : State) (i : Instr), exec i s = .next t →
    (t.w ≠ s.w → (∃ b, i = .wrAddr b) ∨ i = .rdStatus ∨ i = .reset) ∧
    (t.v ≠ s.v → (∃ b, i = .wrAddr b) ∨ i = .rdData ∨ (∃ d, i = .wrData d) ∨ i = .reset) ∧
    (t.status ≠ s.status → i = .rdStatus ∨ (∃ m c, i = .statusEvent m c) ∨ i = .reset) ∧
    (t.ctrl ≠ s.ctrl → ∃ d, i = .wrCtrl d) ∧
    (t.vram ≠ s.vram → ∃ d, i = .wrData d) ∧
    (∀ a, Memory.read t.vram a ≠ Memory.read s.vram a → ∃ d, i = .wrData d ∧ a = s.vAddr.toNat)

/-- The model's own fields: no operation changes the parameters or the pending operations, at most one answer is put in
front of the earlier ones, and draws are only ever taken (log entries 1, 3, 6, 9). -/
def Obligations.ModelFieldsFrame : Prop :=
  ∀ (s t : State) (i : Instr), exec i s = .next t →
    t.params = s.params ∧ t.inputs = s.inputs ∧ s.draws ≤ t.draws ∧
    (t.answers = s.answers ∨ ∃ x, t.answers = x :: s.answers)

/-- The frame of the data port: what a read or a write at offset 7 leaves alone. -/
def Obligations.DataPortFrame : Prop :=
  ∀ (s t : State),
    (exec .rdData s = .next t → t.w = s.w ∧ t.status = s.status ∧ t.ctrl = s.ctrl ∧
      ∀ a, Memory.read t.vram a = Memory.read s.vram a) ∧
    (∀ d, exec (.wrData d) s = .next t → t.w = s.w ∧ t.status = s.status ∧ t.ctrl = s.ctrl ∧
      ∀ a, a ≠ s.vAddr.toNat → Memory.read t.vram a = Memory.read s.vram a)

/-- R126: the stride of each access is that of CTRL at the access, and reading a byte back takes a new address
sequence. -/
def Obligations.StrideFollowsCtrlAtEachAccess : Prop :=
  ∀ (s : State) (c d e : Byte) (a : Addr), s.params.vramSize = 0x10000 → Memory.wf s.vram →
    s.params.dataReadMode = .directIncrement →
    (∀ i ∈ [Instr.rdData, .wrData d], ∀ j ∈ [Instr.rdData, .wrData e], ∃ t,
      execAll [i, .wrCtrl c, j] s = .next t ∧
      t.vAddr = s.vAddr + (if s.ctrl.getLsbD s.params.ctrlIncBit then 32 else 1)
        + (if c.getLsbD s.params.ctrlIncBit then 32 else 1)) ∧
    (∃ t, execAll [.wrData d, .rdData] s = .next t ∧ t.answers =
      .busByte (Memory.read s.vram
        (s.vAddr + if s.ctrl.getLsbD s.params.ctrlIncBit then 32 else 1).toNat) :: s.answers) ∧
    (∃ t rest, runOps (expandLine s.params (.setaddrSync a) ++ [encode (.wrData d)] ++
        expandLine s.params (.setaddrSync a) ++ [encode .rdData]) s = .next t ∧
      t.answers = .busByte d :: rest)

/-- Every step keeps the invariant: parameters in range, video memory canonical and inside VRAM_SIZE. -/
def Obligations.StepKeepsInvariant : Prop :=
  ∀ s t : State, State.Inv s → step s = .next t → State.Inv t

/-- The state after reset meets the invariant. -/
def Obligations.ResetMeetsInvariant : Prop := State.Inv State.reset
end

