-- ==== Sys2Proof/Laws/Decode.lean ====
section
/-! SUPPORT. The lemmas of the formats: the fields of a format-T word, and what the decoder makes of each format. -/

namespace Sys2Proof

/-- The bits of a format-T word (R50). -/
theorem wordT_getLsbD (write : Bool) (k : Offset) (d : Byte) (i : Nat) :
    (wordT write k d).getLsbD i =
      if i < 8 then d.getLsbD i else if i - 8 < 3 then k.getLsbD (i - 8) else (BitVec.ofBool write).getLsbD (i - 8 - 3) := by
  exact (BitVec.getLsbD_append (x := BitVec.ofBool write ++ k) (y := d) (i := i)).trans
    (by rw [BitVec.getLsbD_append])

theorem wordT_write (write : Bool) (k : Offset) (d : Byte) : (wordT write k d).getLsbD 11 = write := by
  simp [wordT_getLsbD, -BitVec.getLsbD_eq_getElem]

theorem wordT_offset (write : Bool) (k : Offset) (d : Byte) : (wordT write k d).extractLsb' 8 3 = k := by
  apply BitVec.eq_of_getLsbD_eq
  intro i hi
  rw [BitVec.getLsbD_extractLsb', wordT_getLsbD]
  simp [hi]

theorem wordT_data (write : Bool) (k : Offset) (d : Byte) : (wordT write k d).extractLsb' 0 8 = d := by
  apply BitVec.eq_of_getLsbD_eq
  intro i hi
  rw [BitVec.getLsbD_extractLsb', wordT_getLsbD]
  simp [hi]

/-- A format-T word decodes by its direction and offset (R50); a read drops `DATA` (R51). -/
theorem decodeT_wordT (write : Bool) (k : Offset) (d : Byte) :
    decodeT (wordT write k d) = if write then writeAt k d else readAt k := by
  rw [decodeT, wordT_write, wordT_offset, wordT_data]

/-- Every 12-bit word is the format-T word of its own fields. -/
theorem wordT_fields (w : BitVec 12) :
    wordT (w.getLsbD 11) (w.extractLsb' 8 3) (w.extractLsb' 0 8) = w := by
  apply BitVec.eq_of_getLsbD_eq
  intro i hi
  rw [wordT_getLsbD, BitVec.getLsbD_extractLsb', BitVec.getLsbD_extractLsb', BitVec.getLsbD_ofBool]
  by_cases h : i < 8
  · simp [h]
  · by_cases h2 : i - 8 < 3
    · have h3 : 8 + (i - 8) = i := by omega
      simp [h, h2, h3]
    · have h3 : i = 11 := by omega
      subst h3
      simp

theorem decode_bus_mapped {p : Params} {a : Addr} {k : Offset} (h : p.regSelect a = some k) (write : Bool) (d : Byte) :
    decode p (.bus write a d) = if write then writeAt k d else readAt k := by
  simp [decode, h, decodeT_wordT]

theorem decode_bus_unmapped {p : Params} {a : Addr} (h : p.regSelect a = none) (write : Bool) (d : Byte) :
    decode p (.bus write a d) = if write then .wrUnmapped a d else .rdUnmapped a := by
  simp [decode, h]

end Sys2Proof
end

