-- ==== Sys2Proof/Laws/State.lean ====
section
/-! SUPPORT. One lemma per field per update of State, each true by rfl. -/

namespace Sys2Proof.Machine

@[simp] theorem State.setW_w (s : State) (x : Phase) : (s.setW x).w = x := rfl
@[simp] theorem State.setW_v (s : State) (x : Phase) : (s.setW x).v = s.v := rfl
@[simp] theorem State.setW_status (s : State) (x : Phase) : (s.setW x).status = s.status := rfl
@[simp] theorem State.setW_ctrl (s : State) (x : Phase) : (s.setW x).ctrl = s.ctrl := rfl
@[simp] theorem State.setW_vram (s : State) (x : Phase) : (s.setW x).vram = s.vram := rfl
@[simp] theorem State.setW_params (s : State) (x : Phase) : (s.setW x).params = s.params := rfl
@[simp] theorem State.setW_draws (s : State) (x : Phase) : (s.setW x).draws = s.draws := rfl
@[simp] theorem State.setW_inputs (s : State) (x : Phase) : (s.setW x).inputs = s.inputs := rfl
@[simp] theorem State.setW_answers (s : State) (x : Phase) : (s.setW x).answers = s.answers := rfl

@[simp] theorem State.setV_w (s : State) (x : VideoAddress) : (s.setV x).w = s.w := rfl
@[simp] theorem State.setV_v (s : State) (x : VideoAddress) : (s.setV x).v = x := rfl
@[simp] theorem State.setV_status (s : State) (x : VideoAddress) : (s.setV x).status = s.status := rfl
@[simp] theorem State.setV_ctrl (s : State) (x : VideoAddress) : (s.setV x).ctrl = s.ctrl := rfl
@[simp] theorem State.setV_vram (s : State) (x : VideoAddress) : (s.setV x).vram = s.vram := rfl
@[simp] theorem State.setV_params (s : State) (x : VideoAddress) : (s.setV x).params = s.params := rfl
@[simp] theorem State.setV_draws (s : State) (x : VideoAddress) : (s.setV x).draws = s.draws := rfl
@[simp] theorem State.setV_inputs (s : State) (x : VideoAddress) : (s.setV x).inputs = s.inputs := rfl
@[simp] theorem State.setV_answers (s : State) (x : VideoAddress) : (s.setV x).answers = s.answers := rfl

@[simp] theorem State.setStatus_w (s : State) (x : Byte) : (s.setStatus x).w = s.w := rfl
@[simp] theorem State.setStatus_v (s : State) (x : Byte) : (s.setStatus x).v = s.v := rfl
@[simp] theorem State.setStatus_status (s : State) (x : Byte) : (s.setStatus x).status = x := rfl
@[simp] theorem State.setStatus_ctrl (s : State) (x : Byte) : (s.setStatus x).ctrl = s.ctrl := rfl
@[simp] theorem State.setStatus_vram (s : State) (x : Byte) : (s.setStatus x).vram = s.vram := rfl
@[simp] theorem State.setStatus_params (s : State) (x : Byte) : (s.setStatus x).params = s.params := rfl
@[simp] theorem State.setStatus_draws (s : State) (x : Byte) : (s.setStatus x).draws = s.draws := rfl
@[simp] theorem State.setStatus_inputs (s : State) (x : Byte) : (s.setStatus x).inputs = s.inputs := rfl
@[simp] theorem State.setStatus_answers (s : State) (x : Byte) : (s.setStatus x).answers = s.answers := rfl

@[simp] theorem State.setCtrl_w (s : State) (x : Byte) : (s.setCtrl x).w = s.w := rfl
@[simp] theorem State.setCtrl_v (s : State) (x : Byte) : (s.setCtrl x).v = s.v := rfl
@[simp] theorem State.setCtrl_status (s : State) (x : Byte) : (s.setCtrl x).status = s.status := rfl
@[simp] theorem State.setCtrl_ctrl (s : State) (x : Byte) : (s.setCtrl x).ctrl = x := rfl
@[simp] theorem State.setCtrl_vram (s : State) (x : Byte) : (s.setCtrl x).vram = s.vram := rfl
@[simp] theorem State.setCtrl_params (s : State) (x : Byte) : (s.setCtrl x).params = s.params := rfl
@[simp] theorem State.setCtrl_draws (s : State) (x : Byte) : (s.setCtrl x).draws = s.draws := rfl
@[simp] theorem State.setCtrl_inputs (s : State) (x : Byte) : (s.setCtrl x).inputs = s.inputs := rfl
@[simp] theorem State.setCtrl_answers (s : State) (x : Byte) : (s.setCtrl x).answers = s.answers := rfl

@[simp] theorem State.setVram_w (s : State) (x : Memory) : (s.setVram x).w = s.w := rfl
@[simp] theorem State.setVram_v (s : State) (x : Memory) : (s.setVram x).v = s.v := rfl
@[simp] theorem State.setVram_status (s : State) (x : Memory) : (s.setVram x).status = s.status := rfl
@[simp] theorem State.setVram_ctrl (s : State) (x : Memory) : (s.setVram x).ctrl = s.ctrl := rfl
@[simp] theorem State.setVram_vram (s : State) (x : Memory) : (s.setVram x).vram = x := rfl
@[simp] theorem State.setVram_params (s : State) (x : Memory) : (s.setVram x).params = s.params := rfl
@[simp] theorem State.setVram_draws (s : State) (x : Memory) : (s.setVram x).draws = s.draws := rfl
@[simp] theorem State.setVram_inputs (s : State) (x : Memory) : (s.setVram x).inputs = s.inputs := rfl
@[simp] theorem State.setVram_answers (s : State) (x : Memory) : (s.setVram x).answers = s.answers := rfl

@[simp] theorem State.setDraws_w (s : State) (x : Nat) : (s.setDraws x).w = s.w := rfl
@[simp] theorem State.setDraws_v (s : State) (x : Nat) : (s.setDraws x).v = s.v := rfl
@[simp] theorem State.setDraws_status (s : State) (x : Nat) : (s.setDraws x).status = s.status := rfl
@[simp] theorem State.setDraws_ctrl (s : State) (x : Nat) : (s.setDraws x).ctrl = s.ctrl := rfl
@[simp] theorem State.setDraws_vram (s : State) (x : Nat) : (s.setDraws x).vram = s.vram := rfl
@[simp] theorem State.setDraws_params (s : State) (x : Nat) : (s.setDraws x).params = s.params := rfl
@[simp] theorem State.setDraws_draws (s : State) (x : Nat) : (s.setDraws x).draws = x := rfl
@[simp] theorem State.setDraws_inputs (s : State) (x : Nat) : (s.setDraws x).inputs = s.inputs := rfl
@[simp] theorem State.setDraws_answers (s : State) (x : Nat) : (s.setDraws x).answers = s.answers := rfl

@[simp] theorem State.pushAnswer_w (s : State) (x : Answer) : (s.pushAnswer x).w = s.w := rfl
@[simp] theorem State.pushAnswer_v (s : State) (x : Answer) : (s.pushAnswer x).v = s.v := rfl
@[simp] theorem State.pushAnswer_status (s : State) (x : Answer) : (s.pushAnswer x).status = s.status := rfl
@[simp] theorem State.pushAnswer_ctrl (s : State) (x : Answer) : (s.pushAnswer x).ctrl = s.ctrl := rfl
@[simp] theorem State.pushAnswer_vram (s : State) (x : Answer) : (s.pushAnswer x).vram = s.vram := rfl
@[simp] theorem State.pushAnswer_params (s : State) (x : Answer) : (s.pushAnswer x).params = s.params := rfl
@[simp] theorem State.pushAnswer_draws (s : State) (x : Answer) : (s.pushAnswer x).draws = s.draws := rfl
@[simp] theorem State.pushAnswer_inputs (s : State) (x : Answer) : (s.pushAnswer x).inputs = s.inputs := rfl
@[simp] theorem State.pushAnswer_answers (s : State) (x : Answer) : (s.pushAnswer x).answers = x :: s.answers := rfl

end Sys2Proof.Machine
end

