-- ==== Sys2Proof/Laws/Memory.lean ====
section
/-! SUPPORT. The laws of video memory: read after write, and that a write keeps the canonical form. -/

namespace Sys2Proof.Machine

@[simp] theorem Memory.read_nil (a : Nat) : Memory.read [] a = Memory.fill := rfl

theorem Memory.read_cons_eq (c : Host.Cell) (m : Memory) : Memory.read (c :: m) c.1 = c.2 := by
  simp [Memory.read]

theorem Memory.read_cons_ne {c : Host.Cell} {a : Nat} (h : c.1 ≠ a) (m : Memory) :
    Memory.read (c :: m) a = Memory.read m a := by
  simp [Memory.read, h]

/-- An address below every listed one is unlisted. -/
theorem Memory.read_below {m : Memory} {a : Nat} (h : ∀ c ∈ m, a < c.1) : Memory.read m a = Memory.fill := by
  induction m with
  | nil => rfl
  | cons c m ih =>
    have hc : c.1 ≠ a := Nat.ne_of_gt (h c (by simp))
    rw [Memory.read_cons_ne hc]
    exact ih fun x hx => h x (by simp [hx])

theorem Memory.read_consFill_ne {a b : Nat} (h : a ≠ b) (d : Byte) (m : Memory) :
    Memory.read (Memory.cons a d m) b = Memory.read m b := by
  unfold Memory.cons
  split
  · rfl
  · exact Memory.read_cons_ne h m

theorem Memory.read_consFill_eq {a : Nat} {m : Memory} (h : ∀ c ∈ m, a < c.1) (d : Byte) :
    Memory.read (Memory.cons a d m) a = d := by
  unfold Memory.cons
  split
  · rename_i hd
    rw [Memory.read_below h, hd]
  · exact Memory.read_cons_eq (a, d) m

/-- A write leaves every other address alone. -/
theorem Memory.read_write_ne {a b : Nat} (h : a ≠ b) (m : Memory) (d : Byte) :
    Memory.read (Memory.write m a d) b = Memory.read m b := by
  induction m with
  | nil => exact Memory.read_consFill_ne h d []
  | cons c m ih =>
    unfold Memory.write
    split
    · exact Memory.read_consFill_ne h d _
    · split
      · rename_i hac
        rw [Memory.read_consFill_ne h, Memory.read_cons_ne (hac ▸ h)]
      · by_cases hcb : c.1 = b
        · subst hcb
          rw [Memory.read_cons_eq, Memory.read_cons_eq]
        · rw [Memory.read_cons_ne hcb, Memory.read_cons_ne hcb, ih]

/-- A read after a write to the same address gives the byte written. -/
theorem Memory.read_write_eq {m : Memory} (hm : Memory.wf m) (a : Nat) (d : Byte) :
    Memory.read (Memory.write m a d) a = d := by
  induction m with
  | nil => exact Memory.read_consFill_eq (by simp) d
  | cons c m ih =>
    obtain ⟨hp, hf⟩ := hm
    rw [List.pairwise_cons] at hp
    unfold Memory.write
    split
    · rename_i hlt
      refine Memory.read_consFill_eq (fun x hx => ?_) d
      rcases List.mem_cons.mp hx with rfl | hx
      · exact hlt
      · exact Nat.lt_trans hlt (hp.1 x hx)
    · split
      · rename_i hac
        exact Memory.read_consFill_eq (fun x hx => hac ▸ hp.1 x hx) d
      · rename_i hac
        rw [Memory.read_cons_ne (Ne.symm hac)]
        exact ih ⟨hp.2, fun x hx => hf x (by simp [hx])⟩

/-- The two cases in one. -/
theorem Memory.read_write {m : Memory} (hm : Memory.wf m) (a b : Nat) (d : Byte) :
    Memory.read (Memory.write m a d) b = if a = b then d else Memory.read m b := by
  split
  · rename_i h
    rw [← h, Memory.read_write_eq hm]
  · rename_i h
    exact Memory.read_write_ne h m d

/-- Where the cells of a written memory come from. -/
theorem Memory.mem_write {m : Memory} {a : Nat} {d : Byte} {c : Host.Cell} (h : c ∈ Memory.write m a d) :
    c ∈ m ∨ (c = (a, d) ∧ d ≠ Memory.fill) := by
  have hcons : ∀ {r : Memory}, c ∈ Memory.cons a d r → c ∈ r ∨ (c = (a, d) ∧ d ≠ Memory.fill) := by
    intro r hr
    unfold Memory.cons at hr
    split at hr
    · exact .inl hr
    · rename_i hd
      rcases List.mem_cons.mp hr with rfl | hr
      · exact .inr ⟨rfl, hd⟩
      · exact .inl hr
  induction m with
  | nil => exact hcons h
  | cons x m ih =>
    unfold Memory.write at h
    split at h
    · exact hcons h
    · split at h
      · rcases hcons h with h | h
        · exact .inl (by simp [h])
        · exact .inr h
      · rcases List.mem_cons.mp h with rfl | h
        · exact .inl (by simp)
        · rcases ih h with h | h
          · exact .inl (by simp [h])
          · exact .inr h

theorem Memory.wf_cons {a : Nat} {d : Byte} {m : Memory} (hm : Memory.wf m) (h : ∀ c ∈ m, a < c.1) :
    Memory.wf (Memory.cons a d m) := by
  unfold Memory.cons
  split
  · exact hm
  · rename_i hd
    refine ⟨List.pairwise_cons.mpr ⟨h, hm.1⟩, fun c hc => ?_⟩
    rcases List.mem_cons.mp hc with rfl | hc
    · exact hd
    · exact hm.2 c hc

/-- A write keeps the canonical form. -/
theorem Memory.wf_write {m : Memory} (hm : Memory.wf m) (a : Nat) (d : Byte) : Memory.wf (Memory.write m a d) := by
  induction m with
  | nil => exact Memory.wf_cons hm (by simp)
  | cons c m ih =>
    obtain ⟨hp, hf⟩ := hm
    have hp' := List.pairwise_cons.mp hp
    have htail : Memory.wf m := ⟨hp'.2, fun x hx => hf x (by simp [hx])⟩
    unfold Memory.write
    split
    · rename_i hlt
      refine Memory.wf_cons ⟨hp, hf⟩ fun x hx => ?_
      rcases List.mem_cons.mp hx with rfl | hx
      · exact hlt
      · exact Nat.lt_trans hlt (hp'.1 x hx)
    · split
      · rename_i hac
        exact Memory.wf_cons htail fun x hx => hac ▸ hp'.1 x hx
      · rename_i hlt hne
        have hw := ih htail
        refine ⟨List.pairwise_cons.mpr ⟨fun x hx => ?_, hw.1⟩, fun x hx => ?_⟩
        · rcases Memory.mem_write hx with hx | ⟨rfl, -⟩
          · exact hp'.1 x hx
          · exact Nat.lt_of_le_of_ne (Nat.le_of_not_lt hlt) (Ne.symm hne)
        · rcases List.mem_cons.mp hx with rfl | hx
          · exact hf x (by simp)
          · exact hw.2 x hx

theorem reset_vram_wf : Memory.wf State.reset.vram := by decide

end Sys2Proof.Machine
end

