-- ==== Sys2Proof/Laws/Ops.lean ====
section
/-! SUPPORT. One lemma per shared operation, saying everything it can do. -/

namespace Sys2Proof.Machine

/-! ### V and its halves -/

@[simp] theorem VideoAddress.toAddr_ofAddr (a : Addr) : (VideoAddress.ofAddr a).toAddr = a := by
  apply BitVec.eq_of_getLsbD_eq
  intro i hi
  simp only [VideoAddress.toAddr, VideoAddress.ofAddr, BitVec.getLsbD_append, BitVec.getLsbD_extractLsb']
  by_cases h : i < 8
  · simp [h]
  · have h2 : i - 8 < 8 := by omega
    have h3 : 8 + (i - 8) = i := by omega
    simp [h, h2, h3]

@[simp] theorem VideoAddress.ofAddr_toAddr (v : VideoAddress) : VideoAddress.ofAddr v.toAddr = v := by
  obtain ⟨hi, lo⟩ := v
  simp only [VideoAddress.toAddr, VideoAddress.ofAddr, VideoAddress.mk.injEq]
  constructor <;>
  · apply BitVec.eq_of_getLsbD_eq
    intro i hi
    simp only [BitVec.getLsbD_extractLsb', BitVec.getLsbD_append]
    simp [hi]

theorem VideoAddress.toAddr_injective {u v : VideoAddress} (h : u.toAddr = v.toAddr) : u = v := by
  rw [← VideoAddress.ofAddr_toAddr u, h, VideoAddress.ofAddr_toAddr]

/-! ### Video memory of a state -/

/-- `vramHas` is the comparison of R7. -/
theorem vramHas_iff (p : Params) (a : Addr) : vramHas p a = true ↔ a.toNat < p.vramSize := by
  have ha := a.isLt
  simp only [vramHas, Bool.or_eq_true, decide_eq_true_eq]
  omega

theorem memRead_ok {a : Addr} {s : State} (h : a.toNat < s.params.vramSize) : memRead a s = .ok (s.vramByte a) := by
  simp [memRead, (vramHas_iff _ _).mpr h]

theorem memRead_error {a : Addr} {s : State} (h : ¬ a.toNat < s.params.vramSize) :
    memRead a s = .error (.vramOutOfRange a) := by
  have h' : ¬ vramHas s.params a = true := fun hc => h ((vramHas_iff _ _).mp hc)
  simp [memRead, h']

theorem memWrite_ok {a : Addr} {d : Byte} {s : State} (h : a.toNat < s.params.vramSize) :
    memWrite a d s = .ok (s.setVram (Memory.write s.vram a.toNat d)) := by
  simp [memWrite, (vramHas_iff _ _).mpr h]

theorem memWrite_error {a : Addr} {d : Byte} {s : State} (h : ¬ a.toNat < s.params.vramSize) :
    memWrite a d s = .error (.vramOutOfRange a) := by
  have h' : ¬ vramHas s.params a = true := fun hc => h ((vramHas_iff _ _).mp hc)
  simp [memWrite, h']

/-! ### Draws and answers -/

@[simp] theorem draw_fst (s : State) : (draw s).1 = Config.freeByte s.draws := rfl
@[simp] theorem draw_snd (s : State) : (draw s).2 = s.setDraws (s.draws + 1) := rfl

theorem returnDraw_eq (s : State) :
    returnDraw s = .next ((s.setDraws (s.draws + 1)).pushAnswer (.busByte (Config.freeByte s.draws))) := rfl

/-! ### The latch -/

theorem latchWriteHalf_high {s : State} (h : s.w = .expectHigh) (b : Byte) :
    latchWriteHalf b s = (s.setV ⟨b, s.v.lo⟩).setW .expectLow := by
  simp [latchWriteHalf, h]

theorem latchWriteHalf_low {s : State} (h : s.w = .expectLow) (b : Byte) :
    latchWriteHalf b s = (s.setV ⟨s.v.hi, b⟩).setW .expectHigh := by
  simp [latchWriteHalf, h]

/-- A half write toggles the phase (R84). -/
@[simp] theorem latchWriteHalf_w (b : Byte) (s : State) : (latchWriteHalf b s).w = s.w.toggle := by
  cases h : s.w <;> simp [latchWriteHalf, h, Phase.toggle]

/-- A half write changes nothing but `W` and `V`. -/
theorem latchWriteHalf_rest (b : Byte) (s : State) :
    latchWriteHalf b s = (s.setV (latchWriteHalf b s).v).setW (latchWriteHalf b s).w := by
  cases h : s.w <;> simp [latchWriteHalf, h]

@[simp] theorem latchAdvance_vAddr (s : State) : (latchAdvance s).vAddr = s.vAddr + s.inc := by
  simp [latchAdvance, State.vAddr]

/-! ### Reset -/

theorem resetBlock_eq (s : State) :
    resetBlock s = { s with w := .expectHigh, v := ⟨Config.freeByte s.draws, Config.freeByte (s.draws + 1)⟩,
                            status := resetStatus s.params, draws := s.draws + 2 } := rfl

/-- The state after reset is power-on at the default parameters (log entries 4 and 5). -/
theorem reset_eq_powerOn : State.reset = powerOn Params.defaults [] 0 [] := by
  rw [powerOn, resetBlock_eq]
  rfl

/-! ### The Tile Decoder -/

/-- The range check of R91 in its other form. -/
theorem tileInRange_iff (i : Nat) : tileInRange i = true ↔ i ≤ 511 := by
  simp [tileInRange, patternEnd]
  omega

theorem readRow_ok {i : Nat} {s : State} (hs : s.params.wf = true) (hi : i ≤ 511) (r : Fin 8) :
    readRow i r s = .ok (rowOf (s.vramByte (plane1Addr i r)) (s.vramByte (plane2Addr i r))) := by
  have hp : 0x2000 ≤ s.params.vramSize := by
    simp only [Params.wf, Bool.and_eq_true, decide_eq_true_eq] at hs
    exact hs.1
  have hr := r.isLt
  have h1 : (plane1Addr i r).toNat < s.params.vramSize := by
    simp only [plane1Addr, BitVec.toNat_ofNat]
    omega
  have h2 : (plane2Addr i r).toNat < s.params.vramSize := by
    simp only [plane2Addr, BitVec.toNat_ofNat]
    omega
  simp [readRow, memRead_ok h1, memRead_ok h2]

/-- In range, the loop of R90 reads the sixteen bytes and nothing fails. -/
theorem readGrid_ok {i : Nat} {s : State} (hs : s.params.wf = true) (hi : i ≤ 511) :
    readGrid i s = .ok #v[
      rowOf (s.vramByte (plane1Addr i 0)) (s.vramByte (plane2Addr i 0)),
      rowOf (s.vramByte (plane1Addr i 1)) (s.vramByte (plane2Addr i 1)),
      rowOf (s.vramByte (plane1Addr i 2)) (s.vramByte (plane2Addr i 2)),
      rowOf (s.vramByte (plane1Addr i 3)) (s.vramByte (plane2Addr i 3)),
      rowOf (s.vramByte (plane1Addr i 4)) (s.vramByte (plane2Addr i 4)),
      rowOf (s.vramByte (plane1Addr i 5)) (s.vramByte (plane2Addr i 5)),
      rowOf (s.vramByte (plane1Addr i 6)) (s.vramByte (plane2Addr i 6)),
      rowOf (s.vramByte (plane1Addr i 7)) (s.vramByte (plane2Addr i 7))] := by
  simp only [readGrid, readRow_ok hs hi]
  rfl

theorem rowOf_get (p1 p2 : Byte) (c : Fin 8) : (rowOf p1 p2)[c] = pixelOf p1 p2 c := by
  fin_cases c <;> rfl

end Sys2Proof.Machine
end

