-- ==== Sys2Proof/Laws/Exec.lean ====
section
/-! SUPPORT. Everything a meaning can do when it answers a next state, that pending operations are untouched by a
meaning, and how runs unfold. -/

namespace Sys2Proof.Machine

/-- Every way `exec` can answer a next state. -/
theorem exec_next_cases {i : Instr} {s t : State} (h : exec i s = .next t) :
    -- no statement
    (t = s ∧ ((∃ d, i = .wrR1 d) ∨ (∃ d, i = .wrStatus d) ∨ (∃ d, i = .wrR3 d) ∨ (∃ d, i = .wrR4 d) ∨
      (∃ d, i = .wrScroll d) ∨ (∃ a, i = .rdUnmapped a) ∨ (∃ a d, i = .wrUnmapped a d) ∨ i = .tick)) ∨
    -- a draw returned
    (t = (s.setDraws (s.draws + 1)).pushAnswer (.busByte (Config.freeByte s.draws)) ∧
      (i = .rdCtrl ∨ i = .rdR1 ∨ i = .rdR3 ∨ i = .rdR4 ∨ i = .rdScroll ∨ i = .rdAddr ∨
        (i = .rdData ∧ s.params.dataReadMode = .noEffect ∧ s.vAddr.toNat < s.params.vramSize))) ∨
    (i = .rdStatus ∧ t = ((s.setStatus (clearVblank s.params s.status)).setW .expectHigh).pushAnswer
      (.busByte (statusReadByte s.params s.status))) ∨
    (i = .rdData ∧ s.params.dataReadMode = .directIncrement ∧ s.vAddr.toNat < s.params.vramSize ∧
      t = (latchAdvance s).pushAnswer (.busByte (s.vramByte s.vAddr))) ∨
    (∃ d, i = .wrCtrl d ∧ t = s.setCtrl d) ∨
    (∃ b, i = .wrAddr b ∧ t = latchWriteHalf b s) ∨
    (∃ d, i = .wrData d ∧ s.vAddr.toNat < s.params.vramSize ∧
      t = latchAdvance (s.setVram (Memory.write s.vram s.vAddr.toNat d))) ∨
    (i = .reset ∧ t = resetBlock s) ∨
    (∃ m c, i = .statusEvent m c ∧ t = s.setStatus (statusAfterEvent s.status m c)) ∨
    (∃ n g, i = .decodeTile n ∧ n ≤ 511 ∧ readGrid n s = .ok g ∧ t = s.pushAnswer (.tile g)) ∨
    (∃ n, i = .decodeTile n ∧ 511 < n ∧ t = s.pushAnswer (.outOfRange n)) := by
  cases i with
  | rdData =>
    simp only [exec, execRdData] at h
    by_cases hv : s.vAddr.toNat < s.params.vramSize
    · cases hm : s.params.dataReadMode <;>
      · simp only [memRead_ok hv, hm, orFault, returnByte, returnDraw_eq, Host.Outcome.next.injEq] at h
        simp [← h, hv]
    · simp [memRead_error hv, orFault] at h
  | wrData d =>
    simp only [exec, execWrData] at h
    by_cases hv : s.vAddr.toNat < s.params.vramSize
    · simp only [memWrite_ok hv, orFault, Host.Outcome.next.injEq] at h
      simp [← h, hv]
    · simp [memWrite_error hv, orFault] at h
  | wrScroll d =>
    simp only [exec, execWrScroll, discardWrite] at h
    cases hm : s.params.scrollPolicy <;> simp [hm] at h
    simp [← h]
  | decodeTile n =>
    simp only [exec, execDecodeTile] at h
    by_cases hn : n ≤ 511
    · rw [if_pos ((tileInRange_iff n).mpr hn)] at h
      cases hg : readGrid n s with
      | error e => simp [hg, orFault] at h
      | ok g =>
        simp only [hg, orFault, Host.Outcome.next.injEq] at h
        simp [← h, hn, hg]
    · have hn' : ¬ tileInRange n = true := fun hc => hn ((tileInRange_iff n).mp hc)
      rw [if_neg hn', raiseOutOfRange, Host.Outcome.next.injEq] at h
      simp only [Instr.decodeTile.injEq, ← h]
      have : 511 < n := by omega
      simp [this]
  | reservedHost c => simp [exec, execReservedHost] at h
  | rdStatus =>
    simp only [exec, execRdStatus, returnByte, latchForceHigh, Host.Outcome.next.injEq] at h
    simp [← h]
  | rdCtrl | rdR1 | rdR3 | rdR4 | rdScroll | rdAddr =>
    simp only [exec, execRdCtrl, execRdR1, execRdR3, execRdR4, execRdScroll, execRdAddr, returnDraw_eq,
      Host.Outcome.next.injEq] at h
    simp [← h]
  | wrCtrl d | wrAddr b | wrR1 d | wrStatus d | wrR3 d | wrR4 d | rdUnmapped a | wrUnmapped a d | tick | reset
  | statusEvent m c =>
    simp only [exec, execWrCtrl, execWrAddr, execWrR1, execWrStatus, execWrR3, execWrR4, execRdUnmapped,
      execWrUnmapped, execTick, execReset, execStatusEvent, discardWrite, Host.Outcome.next.injEq] at h
    simp [← h]

/-! ### Pending operations -/

/-- An outcome with its next state changed. -/
def mapNext (f : State → State) : Result → Result
  | .next t => .next (f t)
  | .fault e => .fault e
  | .refused r => .refused r

/-- A state with other pending operations. -/
def State.withInputs (s : State) (ops : List RawOp) : State := { s with inputs := ops }

theorem memRead_withInputs (a : Addr) (s : State) (ops : List RawOp) :
    memRead a (s.withInputs ops) = memRead a s := rfl

theorem readGrid_withInputs (n : Nat) (s : State) (ops : List RawOp) :
    readGrid n (s.withInputs ops) = readGrid n s := rfl

theorem latchWriteHalf_withInputs (b : Byte) (s : State) (ops : List RawOp) :
    latchWriteHalf b (s.withInputs ops) = (latchWriteHalf b s).withInputs ops := by
  cases h : s.w <;> simp [latchWriteHalf, State.withInputs, h, State.setV, State.setW]

/-- A meaning neither reads nor writes the pending operations. -/
theorem exec_withInputs (i : Instr) (s : State) (ops : List RawOp) :
    exec i (s.withInputs ops) = mapNext (·.withInputs ops) (exec i s) := by
  cases i with
  | rdData =>
    simp only [exec, execRdData]
    rw [show memRead (s.withInputs ops).vAddr (s.withInputs ops) = memRead s.vAddr s from rfl]
    cases memRead s.vAddr s with
    | error e => rfl
    | ok b => cases hm : s.params.dataReadMode <;> simp only [orFault, State.withInputs, hm] <;> rfl
  | wrData d =>
    simp only [exec, execWrData]
    by_cases hv : s.vAddr.toNat < s.params.vramSize
    · have hv' : (s.withInputs ops).vAddr.toNat < (s.withInputs ops).params.vramSize := hv
      rw [memWrite_ok hv, memWrite_ok hv']
      rfl
    · have hv' : ¬ (s.withInputs ops).vAddr.toNat < (s.withInputs ops).params.vramSize := hv
      rw [memWrite_error hv, memWrite_error hv']
      rfl
  | wrAddr b => simp only [exec, execWrAddr, latchWriteHalf_withInputs, mapNext]
  | wrScroll d =>
    simp only [exec, execWrScroll, State.withInputs]
    cases s.params.scrollPolicy <;> rfl
  | decodeTile n =>
    simp only [exec, execDecodeTile, readGrid_withInputs]
    split
    · cases readGrid n s <;> rfl
    · rfl
  | rdCtrl | rdR1 | rdStatus | rdR3 | rdR4 | rdScroll | rdAddr | wrCtrl _ | wrR1 _ | wrStatus _ | wrR3 _ | wrR4 _
  | rdUnmapped _ | wrUnmapped _ _ | reset | statusEvent _ _ | tick | reservedHost _ => rfl

/-! ### Runs -/

theorem runOps_nil (s : State) : runOps [] s = .next s := rfl

/-- A run takes one operation, performs it, and goes on from the state it leaves. -/
theorem runOps_cons (op : RawOp) (ops : List RawOp) (s : State) :
    runOps (op :: ops) s =
      match exec (decode s.params op) s with
      | .next t => Host.Core.run Sys2Proof.core ops.length (t.withInputs (ops ++ s.inputs))
      | .fault e => .fault e
      | .refused r => .refused r := by
  have h : Sys2Proof.core.step { s with inputs := op :: ops ++ s.inputs } =
      mapNext (·.withInputs (ops ++ s.inputs)) (exec (decode s.params op) s) :=
    exec_withInputs (decode s.params op) s (ops ++ s.inputs)
  simp only [runOps, List.length_cons, Host.Core.run]
  rw [h]
  cases exec (decode s.params op) s <;> rfl

theorem execAll_cons_next {i : Instr} {is : List Instr} {s t : State} (h : exec i s = .next t) :
    execAll (i :: is) s = execAll is t := by
  simp [execAll, h]

theorem execAll_append_next {is js : List Instr} {s t : State} (h : execAll is s = .next t) :
    execAll (is ++ js) s = execAll js t := by
  induction is generalizing s with
  | nil =>
    simp only [execAll, Host.Outcome.next.injEq] at h
    simp [h]
  | cons i is ih =>
    simp only [execAll] at h
    cases hi : exec i s with
    | next u =>
      rw [hi] at h
      rw [List.cons_append, execAll_cons_next hi, ih h]
    | fault e => simp [hi] at h
    | refused r => simp [hi] at h

end Sys2Proof.Machine
end

