-- ==== Sys2Proof/Laws/PerInstr.lean ====
section
/-! SUPPORT. Statements for all instructions, one lemma per constructor. -/

namespace Sys2Proof.Laws.AgentCarried

/-- The raw form an operation is encoded in belongs to the agent that issues the operation (R1, R53; of a
reserved host code, log entry 18). -/
def Statement (i : Instr) : Prop := ∀ p : Params, i.wf p = true → (encode i).agent = i.agent

theorem rdCtrl : Statement .rdCtrl := fun _ _ => rfl
theorem rdR1 : Statement .rdR1 := fun _ _ => rfl
theorem rdStatus : Statement .rdStatus := fun _ _ => rfl
theorem rdR3 : Statement .rdR3 := fun _ _ => rfl
theorem rdR4 : Statement .rdR4 := fun _ _ => rfl
theorem rdScroll : Statement .rdScroll := fun _ _ => rfl
theorem rdAddr : Statement .rdAddr := fun _ _ => rfl
theorem rdData : Statement .rdData := fun _ _ => rfl
theorem wrCtrl (d : Byte) : Statement (.wrCtrl d) := fun _ _ => rfl
theorem wrR1 (d : Byte) : Statement (.wrR1 d) := fun _ _ => rfl
theorem wrStatus (d : Byte) : Statement (.wrStatus d) := fun _ _ => rfl
theorem wrR3 (d : Byte) : Statement (.wrR3 d) := fun _ _ => rfl
theorem wrR4 (d : Byte) : Statement (.wrR4 d) := fun _ _ => rfl
theorem wrScroll (d : Byte) : Statement (.wrScroll d) := fun _ _ => rfl
theorem wrAddr (b : Byte) : Statement (.wrAddr b) := fun _ _ => rfl
theorem wrData (d : Byte) : Statement (.wrData d) := fun _ _ => rfl
theorem rdUnmapped (a : Addr) : Statement (.rdUnmapped a) := fun _ _ => rfl
theorem wrUnmapped (a : Addr) (d : Byte) : Statement (.wrUnmapped a d) := fun _ _ => rfl
theorem reset : Statement .reset := fun _ _ => rfl
theorem statusEvent (setMask clrMask : Byte) : Statement (.statusEvent setMask clrMask) := fun _ _ => rfl
theorem tick : Statement .tick := fun _ _ => rfl
theorem decodeTile (i : Nat) : Statement (.decodeTile i) := fun _ _ => rfl

theorem reservedHost (c : BitVec 4) : Statement (.reservedHost c) := by
  intro p h
  have h2 : ¬ (c = 0b0010 ∨ c = 0b0011) := by
    rintro (rfl | rfl) <;> simp [Instr.wf, reservedHostCode] at h
  simp only [encode, RawOp.agent, if_neg h2, Instr.agent]

end Sys2Proof.Laws.AgentCarried
end

