-- ==== Sys2Proof/Laws/RegSelect.lean ====
section
/-! SUPPORT. The plain-data form of `reg_select` describes every map of bus addresses to offsets (log entry 2). -/

namespace Sys2Proof

/-- The one-address range of a map at an address, if the map has one there. -/
def rangeAt (f : Addr → Option Offset) (n : Nat) : Option RegRange :=
  (f (BitVec.ofNat 16 n)).map fun k => ⟨BitVec.ofNat 16 n, 1, k⟩

theorem select_one (x a : Addr) (k : Offset) : RegRange.select ⟨x, 1, k⟩ a = if x = a then some k else none := by
  have hx : x = a ↔ x.toNat = a.toNat := ⟨congrArg _, BitVec.eq_of_toNat_eq⟩
  simp only [RegRange.select]
  by_cases h : x = a
  · subst h
    simp
  · rw [if_neg h, if_neg]
    rw [hx] at h
    omega

theorem selectRange_rangeAt (f : Addr → Option Offset) (a : Addr) (ns : List Nat) :
    selectRange (ns.filterMap (rangeAt f)) a = if ∃ n ∈ ns, BitVec.ofNat 16 n = a then f a else none := by
  induction ns with
  | nil => simp [selectRange]
  | cons n ns ih =>
    by_cases hn : BitVec.ofNat 16 n = a
    · rw [if_pos ⟨n, by simp, hn⟩]
      cases hf : f a with
      | none => simp [rangeAt, hn, hf, ih]
      | some k => simp [rangeAt, hn, hf, selectRange, select_one]
    · have hrest : (∃ m ∈ n :: ns, BitVec.ofNat 16 m = a) ↔ ∃ m ∈ ns, BitVec.ofNat 16 m = a := by simp [hn]
      cases hf : f (BitVec.ofNat 16 n) with
      | none => simp [rangeAt, hf, ih, hn]
      | some k => simp [rangeAt, hf, selectRange, select_one, hn, ih]

/-- Every `reg_select` is some list of ranges. -/
theorem regSelect_complete (f : Addr → Option Offset) : ∃ rs, ∀ a, selectRange rs a = f a := by
  refine ⟨(List.range 65536).filterMap (rangeAt f), fun a => ?_⟩
  rw [selectRange_rangeAt, if_pos ⟨a.toNat, List.mem_range.mpr a.isLt, BitVec.ofNat_toNat ..|>.trans (by simp)⟩]

end Sys2Proof
end

