-- ==== Sys2Proof/Tests/Slice0.lean ====
section
/-! SUPPORT. Tests: expected values from spec/95_test_vectors.md (V<n>, L<n>, P<n>) and from the encodings of
30_encoding.md; and a witness for the hypotheses of each statement. -/

namespace Sys2Proof.Tests

open Sys2Proof Sys2Proof.Machine

/-- A state at the default parameters. -/
def mk (w : Phase) (v : Addr) (status ctrl : Byte) (m : Memory := []) : State :=
  { State.reset with w := w, v := .ofAddr v, status := status, ctrl := ctrl, vram := m }

/-- A state with other parameters. -/
def withParams (s : State) (p : Params) : State := { s with params := p }

/-- The default parameters with a smaller video memory. -/
def small : Params := { Params.defaults with vramSize := 0x4000 }

/-- The outcome is a next state of which the test holds. -/
def nextIs (r : Result) (f : State → Bool) : Bool :=
  match r with
  | .next t => f t
  | .fault _ => false
  | .refused _ => false

/-- The outcome is this fault. -/
def faultIs (r : Result) (e : Fault) : Bool :=
  match r with
  | .next _ => false
  | .fault x => x == e
  | .refused _ => false

/-- The outcome is this refusal. -/
def refusedIs (r : Result) (e : Refusal) : Bool :=
  match r with
  | .next _ => false
  | .fault _ => false
  | .refused x => x == e

/-! ### WellFormed: an ill-formed term for each check is refused -/

theorem test_wf_refuses_read_inside_window : Instr.wf Params.defaults (.rdUnmapped 0x2007) = false := by decide
theorem test_wf_refuses_write_inside_window : Instr.wf Params.defaults (.wrUnmapped 0x2000 0) = false := by decide
theorem test_wf_refuses_defined_host_code : Instr.wf Params.defaults (.reservedHost 4) = false := by decide
theorem test_wf_refuses_small_video_memory : Params.wf { Params.defaults with vramSize := 0x1FFF } = false := by decide
theorem test_wf_refuses_large_video_memory : Params.wf { Params.defaults with vramSize := 0x10001 } = false := by decide

/-! ### Decode: every constructor by a word written out from R50, R52 and R53 -/

theorem test_decode_reads (p : Params) :
    [0b000000000000, 0b000100000000, 0b001000000000, 0b001100000000, 0b010000000000, 0b010100000000, 0b011000000000,
      0b011100000000].map (fun w => decode p (.reg w)) =
    [Instr.rdCtrl, .rdR1, .rdStatus, .rdR3, .rdR4, .rdScroll, .rdAddr, .rdData] := by rfl

theorem test_decode_writes (p : Params) :
    [0b100000000100, 0b100100011110, 0b101000000000, 0b101110000001, 0b110001010101, 0b110100010000, 0b111000100001,
      0b111111111111].map (fun w => decode p (.reg w)) =
    [Instr.wrCtrl 0x04, .wrR1 0x1E, .wrStatus 0x00, .wrR3 0x81, .wrR4 0x55, .wrScroll 0x10, .wrAddr 0x21, .wrData 0xFF] := by
  rfl

theorem test_decode_read_ignores_data (p : Params) : decode p (.reg 0b001010101010) = .rdStatus := by rfl

theorem test_decode_host (p : Params) :
    [0b0001, 0b0010, 0b0011, 0b0100, 0b0000, 0b0101, 0b1111].map (fun c => decode p (.host c ⟨0x80, 0x0F, 511⟩)) =
    [Instr.reset, .statusEvent 0x80 0x0F, .tick, .decodeTile 511, .reservedHost 0, .reservedHost 5, .reservedHost 15] := by
  rfl

/-- V16, V17, V34, V35: the window at 0x2000, and both addresses beside it. -/
theorem test_decode_bus :
    decode Params.defaults (.bus false 0x2002 0) = .rdStatus ∧ decode Params.defaults (.bus false 0x200A 0) = .rdUnmapped 0x200A ∧
    decode Params.defaults (.bus true 0x2006 0x21) = .wrAddr 0x21 ∧
    decode Params.defaults (.bus true 0x2008 0x21) = .wrUnmapped 0x2008 0x21 ∧
    decode Params.defaults (.bus true 0x1FFF 0x21) = .wrUnmapped 0x1FFF 0x21 := by decide

/-- G10: a mirroring `reg_select` given as one range. -/
theorem test_decode_mirrored_window :
    decode { Params.defaults with regMap := .ranges [⟨0x2000, 0x2000, 0⟩] } (.bus false 0x3FFA 0) = .rdStatus := by decide

theorem test_table_words_rejected :
    decodeTableWord 8 0x10 = none ∧ decodeTableWord 16 0x1000 = none ∧
    rawOfTable 16 0x1000 = .error (.notRegisterWord 0x1000) := by
  refine ⟨rfl, rfl, rfl⟩

/-! ### Reads -/

theorem test_rdStatus_V1 : nextIs (exec .rdStatus (mk .expectLow 0x21BC 0x80 0)) (fun t =>
    t.w == .expectHigh && t.vAddr == 0x21BC && t.status == 0 && t.answers == [.busByte 0x80]) = true := by decide
theorem test_rdStatus_V4 : nextIs (exec .rdStatus (withParams (mk .expectHigh 0 0xFF 0)
    { Params.defaults with statusReadValue := .postClear })) (fun t =>
    t.status == 0x7F && t.answers == [.busByte 0x7F]) = true := by decide
theorem test_rdData_V8 : nextIs (exec .rdData (mk .expectLow 0xFFFF 0 0 [(0xFFFF, 0xAA)])) (fun t =>
    t.vAddr == 0 && t.w == .expectLow && t.answers == [.busByte 0xAA]) = true := by decide
theorem test_rdData_V18 : faultIs (exec .rdData (withParams (mk .expectHigh 0x4000 0 0) small)) (.vramOutOfRange 0x4000)
    = true := by decide
/-- R48: the fault is raised under `NO_EFFECT` too (log entry 17). -/
theorem test_rdData_R48_noEffect : faultIs (exec .rdData (withParams (mk .expectHigh 0x4000 0 0)
    { small with dataReadMode := .noEffect })) (.vramOutOfRange 0x4000) = true := by decide
theorem test_rdCtrl_V13 : nextIs (exec .rdCtrl (mk .expectHigh 0 0 0x04)) (fun t => t.ctrl == 0x04) = true := by decide
theorem test_rdR1_V14 : nextIs (exec .rdR1 (mk .expectLow 1 2 3)) (fun t => t.vAddr == 1 && t.status == 2) = true := by decide
theorem test_rdR3_V14 : nextIs (exec .rdR3 (mk .expectLow 1 2 3)) (fun t => t.vAddr == 1 && t.status == 2) = true := by decide
theorem test_rdR4_V14 : nextIs (exec .rdR4 (mk .expectLow 1 2 3)) (fun t => t.vAddr == 1 && t.status == 2) = true := by decide
theorem test_rdScroll_V15 : nextIs (exec .rdScroll (mk .expectLow 1 2 3)) (fun t => t.w == .expectLow) = true := by decide
theorem test_rdAddr_V12 : nextIs (exec .rdAddr (mk .expectLow 0x21BC 2 3)) (fun t =>
    t.w == .expectLow && t.vAddr == 0x21BC && t.draws == 4) = true := by decide
theorem test_rdUnmapped_V17 : nextIs (exec (.rdUnmapped 0x200A) (mk .expectHigh 0 0x80 0)) (fun t =>
    t.status == 0x80 && t.answers == []) = true := by decide

/-! ### Writes -/

theorem test_wrCtrl_V19 : nextIs (exec (.wrCtrl 0x04) (mk .expectHigh 0 0 0)) (fun t => t.inc == 32) = true := by decide
theorem test_wrCtrl_V20 : nextIs (exec (.wrCtrl 0xFB) (mk .expectHigh 0 0 4)) (fun t => t.ctrl == 0xFB && t.inc == 1)
    = true := by decide
theorem test_wrAddr_V21 : nextIs (exec (.wrAddr 0x21) (mk .expectHigh 0x3ABC 0 0)) (fun t =>
    t.w == .expectLow && t.vAddr == 0x21BC) = true := by decide
theorem test_wrAddr_V22 : nextIs (exec (.wrAddr 0x08) (mk .expectLow 0x21BC 0 0)) (fun t =>
    t.w == .expectHigh && t.vAddr == 0x2108) = true := by decide
theorem test_wrData_V28 : nextIs (exec (.wrData 0x22) (mk .expectHigh 0xFFE0 0 4)) (fun t =>
    t.vram == [(0xFFE0, 0x22)] && t.vAddr == 0) = true := by decide
theorem test_wrData_V36 : faultIs (exec (.wrData 0x01) (withParams (mk .expectHigh 0x4000 0 0) small)) (.vramOutOfRange 0x4000)
    = true := by decide
theorem test_wrStatus_V30 : nextIs (exec (.wrStatus 0x00) (mk .expectLow 0 0x80 0)) (fun t =>
    t.status == 0x80 && t.w == .expectLow) = true := by decide
theorem test_wrScroll_V31 : nextIs (exec (.wrScroll 0x10) (mk .expectLow 0x21BC 0 0)) (fun t =>
    t.w == .expectLow && t.vAddr == 0x21BC) = true := by decide
theorem test_wrScroll_V32 : refusedIs (exec (.wrScroll 0x10) (withParams (mk .expectLow 0 0 0)
    { Params.defaults with scrollPolicy := .refuse })) .scrollWrite = true := by decide
theorem test_wrR1_V33 : nextIs (exec (.wrR1 0x1E) (mk .expectLow 7 8 9)) (· == mk .expectLow 7 8 0x09) = true := by decide
theorem test_wrR3_V33 : nextIs (exec (.wrR3 0x00) (mk .expectLow 7 8 9)) (· == mk .expectLow 7 8 0x09) = true := by decide
theorem test_wrR4_V33 : nextIs (exec (.wrR4 0x55) (mk .expectLow 7 8 9)) (· == mk .expectLow 7 8 0x09) = true := by decide
theorem test_wrUnmapped_V35 : nextIs (exec (.wrUnmapped 0x2008 0x21) (mk .expectHigh 0 0 0)) (· == mk .expectHigh 0 0 0)
    = true := by decide

/-! ### Host operations -/

theorem test_statusEvent_V66 : nextIs (exec (.statusEvent 0x81 0x81) (mk .expectLow 5 0 0)) (fun t => t.status == 0x81)
    = true := by decide
theorem test_statusEvent_V68 : nextIs (exec (.statusEvent 0x0F 0xF0) (mk .expectLow 5 0xFF 0)) (fun t => t.status == 0x0F)
    = true := by decide
theorem test_tick_V70 : nextIs (exec .tick (mk .expectLow 5 0xFF 0)) (· == mk .expectLow 5 0xFF 0) = true := by decide
theorem test_reset_V71 : nextIs (exec .reset (mk .expectLow 0x21BC 0x41 0x04 [(0x2108, 0xFF)])) (fun t =>
    t.w == .expectHigh && t.status == 0x80 && t.ctrl == 0x04 && t.vram == [(0x2108, 0xFF)] && t.draws == 5)
    = true := by decide
theorem test_reservedHost_V77 : refusedIs (exec (.reservedHost 0) (mk .expectHigh 0 0 0)) (.reservedHostCode 0)
    = true := by decide

/-- The bytes of program P4, from 0x0010. -/
def tileP4 : Memory :=
  [(0x10, 0x41), (0x11, 0xC2), (0x12, 0x44), (0x13, 0x48), (0x14, 0x10), (0x15, 0x20), (0x16, 0x40), (0x17, 0x80),
   (0x18, 0x01), (0x19, 0x02), (0x1A, 0x04), (0x1B, 0x08), (0x1C, 0x16), (0x1D, 0x21), (0x1E, 0x42), (0x1F, 0x87)]

/-- P4: the grid of `DECODE 1`. -/
theorem test_decodeTile_P4 : nextIs (exec (.decodeTile 1) (mk .expectHigh 0x20 0 0 tileP4)) (fun t => t.answers == [.tile
    #v[#v[0, 1, 0, 0, 0, 0, 0, 3], #v[1, 1, 0, 0, 0, 0, 3, 0], #v[0, 1, 0, 0, 0, 3, 0, 0], #v[0, 1, 0, 0, 3, 0, 0, 0],
       #v[0, 0, 0, 3, 0, 2, 2, 0], #v[0, 0, 3, 0, 0, 0, 0, 2], #v[0, 3, 0, 0, 0, 0, 2, 0], #v[3, 0, 0, 0, 0, 2, 2, 2]]])
    = true := by decide
/-- V60: no wrap of `16*i`. -/
theorem test_decodeTile_V60 : nextIs (exec (.decodeTile (2 ^ 32)) (mk .expectHigh 0 0 0)) (fun t =>
    t.answers == [.outOfRange (2 ^ 32)]) = true := by decide

/-! ### One step from reset, a short run, the adapter and the syntax -/

/-- A program runs from reset in the boot order of R122: the word after it is fetched and the store lands (P1). -/
theorem test_boot_run_stores : nextIs (runOps [.reg 0x200, .reg 0x800, .reg 0xE21, .reg 0xE08, .reg 0xFFF] State.reset)
    (fun t => t.vram == [(0x2108, 0xFF)] && t.vAddr == 0x2109 && t.answers == [.busByte 0x80]) = true := by decide
theorem test_step_runs_fetched_word : nextIs (step (State.reset.withFetchWord 16 0x804)) (fun t => t.ctrl == 4) = true := by
  decide
theorem test_palette_V63 : mapPixel 4 = .error (.invalidPixelValue 4) := by rfl
theorem test_syntax_write_line :
    parseLine ['W', 'R', ' ', 'A', 'D', 'D', 'R', ',', ' ', '0', 'x', '2', '1', ' ', ';', 'h', 'i'] = some [.wr 6 0x21] := by
  decide
theorem test_syntax_decimal_fill :
    parseLine ['F', 'I', 'L', 'L', ' ', '3', ',', '3', '6'] = some [.fill 3 36] := by decide
theorem test_syntax_rejects_wide_byte :
    parseLine ['W', 'R', ' ', '7', ',', '2', '5', '6'] = none := by decide

/-! ### Witnesses: a state and operands that meet the hypotheses of each statement -/

theorem witness_RdDataReturnsByteAtVThenAdvances :
    (let s := withParams (mk .expectLow 0x3FFF 0 4) small
     s.params.dataReadMode = .directIncrement ∧ s.vAddr.toNat < s.params.vramSize) ∧
    (let s := withParams (mk .expectLow 0x4000 0 4) small
     s.params.dataReadMode = .directIncrement ∧ s.params.vramSize ≤ s.vAddr.toNat) ∧
    (let s := withParams (mk .expectLow 0x3FFF 0 4) { small with dataReadMode := .noEffect }
     s.params.dataReadMode = .noEffect ∧ s.vAddr.toNat < s.params.vramSize) := by decide

theorem witness_DataPortAccessPastVramSizeFaults :
    (let s := withParams (mk .expectLow 0x4000 0 4) { small with dataReadMode := .noEffect }
     s.params.vramSize ≤ s.vAddr.toNat) ∧
    (withParams (mk .expectLow 0x4000 0 4) small).params.vramSize ≤ (mk .expectLow 0x4000 0 4).vAddr.toNat ∧
    (mk .expectLow 0xFFFF 0 4).params.vramSize = 0x10000 := by decide

theorem witness_UnreadableRegisterReadsReturnDraw :
    Instr.rdCtrl ∈ [Instr.rdCtrl, .rdR1, .rdR3, .rdR4, .rdScroll, .rdAddr] ∧
    Instr.rdAddr ∈ [Instr.rdCtrl, .rdR1, .rdR3, .rdR4, .rdScroll, .rdAddr] := by decide

theorem witness_BusOperationsDoNotReadLatch :
    let s := mk .expectHigh 0x0000 0x80 0; let t := mk .expectLow 0xFFFF 0x80 4
    Instr.rdData.agent = .busMaster ∧ s.params = t.params ∧ s.status = t.status ∧ s.draws = t.draws ∧
    s.answers = t.answers ∧ Memory.read s.vram s.vAddr.toNat = Memory.read t.vram t.vAddr.toNat ∧
    isNext (exec .rdData s) = true ∧ isNext (exec .rdData t) = true := by decide

theorem witness_WrScrollFollowsPolicy :
    Params.defaults.scrollPolicy = .noEffect ∧ ({ Params.defaults with scrollPolicy := .refuse }).scrollPolicy = .refuse := by
  decide

theorem witness_WrAddrWritesOneHalfAndToggles :
    (mk .expectHigh 0xFFFF 0 0).w = .expectHigh ∧ (mk .expectLow 0xFFFF 0 0).w = .expectLow := by decide

theorem witness_WrDataStoresAtVThenAdvances :
    (let s := withParams (mk .expectHigh 0x3FFF 0 0 [(5, 1)]) small; Memory.wf s.vram ∧ s.vAddr.toNat < s.params.vramSize) ∧
    (let s := withParams (mk .expectHigh 0x4000 0 0 [(5, 1)]) small; Memory.wf s.vram ∧ s.params.vramSize ≤ s.vAddr.toNat) ∧
    (let s := mk .expectHigh 0xFFFF 0 0 [(5, 1)]; Memory.wf s.vram ∧ s.vAddr.toNat < s.params.vramSize) := by decide

theorem witness_DiscardedWritesChangeNothing :
    Instr.wrStatus 0xFF ∈ [Instr.wrStatus 0xFF, .wrR1 0xFF, .wrR3 0xFF, .wrR4 0xFF] := by decide

theorem witness_UnmappedAccessesChangeNothing :
    Params.defaults.regSelect 0x1FFF = none ∧ Params.defaults.regSelect 0x2008 = none := by decide

theorem witness_IdempotentAccesses :
    let s := mk .expectLow 1 2 3
    s.params.scrollPolicy = .noEffect ∧ isNext (exec (.wrCtrl 4) s) = true ∧ isNext (exec (.wrScroll 4) s) = true := by decide

theorem witness_LatchTransitionTable :
    [Instr.wrAddr 1, .rdStatus, .rdData, .wrData 2, .reset, .tick].all (fun i =>
      isNext (exec i (mk .expectHigh 0x5A5A 0 0)) && isNext (exec i (mk .expectLow 0x5A5A 0 0))) = true := by decide

theorem witness_AddressSequenceGivesAddress : (mk .expectHigh 0x1234 0x80 0).w = .expectHigh := by decide

theorem witness_DataPortAccessesAdvanceByMultiples :
    let s := mk .expectHigh 0xFFF0 0 4
    s.params.vramSize = 0x10000 ∧ s.params.dataReadMode = .directIncrement ∧
    ∀ i ∈ [Instr.rdData, .wrData 7, .rdData], i = .rdData ∨ ∃ d, i = .wrData d := by
  refine ⟨by decide, by decide, fun i hi => ?_⟩
  simp only [List.mem_cons, List.not_mem_nil, or_false] at hi
  rcases hi with rfl | rfl | rfl
  · exact .inl rfl
  · exact .inr ⟨7, rfl⟩
  · exact .inl rfl

theorem witness_PhaseIsParityOfAddressWrites :
    (∀ i ∈ [Instr.wrAddr 1, .tick, .wrData 2, .wrAddr 3, .wrAddr 4], i ≠ .rdStatus ∧ i ≠ .reset) ∧
    isNext (execAll [.wrAddr 1, .tick, .wrData 2, .wrAddr 3, .wrAddr 4] (mk .expectHigh 0 0 0)) = true := by decide

theorem witness_HalfWrittenAddressIsUsed :
    let s := mk .expectHigh 0x0008 0 0 [(0x2108, 9)]
    s.w = .expectHigh ∧ Memory.wf s.vram ∧ s.params.vramSize = 0x10000 ∧ s.params.dataReadMode = .directIncrement := by decide

theorem witness_StatusReadCorruptsHalfBuiltAddress : (mk .expectHigh 0x1234 0x80 0).w = .expectHigh := by decide

theorem witness_FrameEventsDoNotDisturbAddressSequence :
    (mk .expectHigh 0 0 0).w = .expectHigh ∧ ∀ i ∈ [Instr.statusEvent 0x80 0, .tick], i.agent = .frameTiming := by decide

theorem witness_VblankReadersAndWriters :
    nextIs (exec .rdStatus (mk .expectHigh 0 0x80 0)) (fun t => t.status.getLsbD 7 != true) = true ∧
    nextIs (exec (.statusEvent 0x80 0) (mk .expectHigh 0 0 0)) (fun t => t.status.getLsbD 7 != false) = true ∧
    nextIs (exec .reset (mk .expectHigh 0 0 0)) (fun t => t.status.getLsbD 7 != false) = true ∧
    Instr.wrData 1 ≠ .rdStatus ∧ isNext (exec (.wrData 1) (mk .expectHigh 0 0 0)) = true := by decide

theorem witness_SecondStatusReadReturnsVblankClear :
    (∀ i ∈ [Instr.wrAddr 1, .rdData], i ≠ .reset ∧ ∀ m c, i ≠ .statusEvent m c) ∧
    isNext (execAll [.rdStatus, .wrAddr 1, .rdData, .rdStatus] (mk .expectHigh 0 0xFF 0)) = true := by
  refine ⟨by simp, by decide⟩

theorem witness_BootOrderReachesAddress : Params.defaults.vramSize = 0x10000 ∧ Memory.wf [(3, 4)] := by decide

theorem witness_DecodeTileAnswersGridOrOutOfRange :
    Params.defaults.wf = true ∧ 16 * 511 + 16 ≤ 0x2000 ∧ 16 * 512 + 16 > 0x2000 ∧
    ({ Params.defaults with vramSize := 0x2000 }).wf = true := by decide

theorem witness_DecodeTileIsPureDecoderOfBytes : Params.defaults.wf = true ∧ 511 ≤ 511 := by decide

theorem witness_TileIndexSelectsPatternTable :
    Params.defaults.wf = true ∧ 255 ≤ 255 ∧ (256 ≤ 256 ∧ 256 ≤ 511) ∧ 512 ≤ 512 := by decide

theorem witness_DecodeTileIsPure :
    let s := mk .expectHigh 0 0 0 [(0x2000, 1)]; let t := mk .expectLow 9 9 9
    isNext (exec (.decodeTile 511) s) = true ∧ isNext (exec (.decodeTile 512) s) = true ∧
    isNext (exec (.decodeTile 511) t) = true ∧ s.params = t.params ∧
    ∀ k, k < 16 → Memory.read s.vram (16 * 511 + k) = Memory.read t.vram (16 * 511 + k) := by decide

theorem witness_DataPortWritesReachDecoder :
    (let s := mk .expectHigh 0x1FFF 0 0 [(3, 4)]; State.Inv s ∧ isNext (exec (.wrData 1) s) = true ∧ s.vAddr.toNat < 0x2000) ∧
    (let s := mk .expectHigh 0x2000 0 0 [(3, 4)]; State.Inv s ∧ isNext (exec (.wrData 1) s) = true ∧ 0x2000 ≤ s.vAddr.toNat ∧
      exec (.decodeTile 512) s = .next { s with answers := .outOfRange 512 :: s.answers }) := by
  refine ⟨by decide, by decide, by decide, by decide, rfl⟩

theorem witness_PaletteMappingIsGuarded :
    4 ≤ 4 ∧ ∃ t g, exec (.decodeTile 1) (mk .expectHigh 0x20 0 0 tileP4) = .next t ∧
      t.answers = .tile g :: (mk .expectHigh 0x20 0 0 tileP4).answers := ⟨le_refl 4, _, _, rfl, rfl⟩

theorem witness_CompleteListOfErrors :
    small.wf = true ∧ isNext (exec .rdData (withParams (mk .expectHigh 0x4000 0 0) small)) = false := by decide

theorem witness_NoRunReachesInvalidPixelValue : 4 ≤ 4 := by decide

theorem witness_NoFaultWithFullVideoMemory : (mk .expectHigh 0xFFFF 0 0).params.vramSize = 0x10000 := by decide

theorem witness_ReservedHostCodesAreRefused :
    (0x0#4).toNat = 0 ∧ 5 ≤ (0x5#4).toNat ∧ 5 ≤ (0xF#4).toNat ∧
    ({ Params.defaults with scrollPolicy := .refuse }).scrollPolicy = .refuse ∧
    refusedIs (exec (decode Params.defaults (.host 5 .zero)) (mk .expectHigh 0 0 0)) (.reservedHostCode 5) = true := by decide

theorem witness_EveryOperationSequenceCompletes :
    Params.total Params.defaults ∧ ∀ c o, RawOp.host c o ∈ [RawOp.reg 0xF01, .host 4 ⟨0, 0, 600⟩] →
      reservedHostCode c = false := by
  refine ⟨by decide, fun c o h => ?_⟩
  simp only [List.mem_cons, reduceCtorEq, List.not_mem_nil, or_false, false_or, RawOp.host.injEq] at h
  rw [h.1]
  decide

theorem witness_DecodeOfEncode :
    Instr.wf Params.defaults (.rdUnmapped 0x2008) = true ∧ Instr.wf Params.defaults (.wrUnmapped 0x1FFF 1) = true ∧
    Instr.wf Params.defaults (.reservedHost 5) = true ∧ Instr.wf Params.defaults (.decodeTile 9999) = true := by decide

theorem witness_RegisterWordLayout : 0x800 ≤ (0x800#12).toNat ∧ (0x7FF#12).toNat < 0x800 := by decide

theorem witness_BusAccessGoesThroughRegSelect :
    Params.defaults.regSelect 0x2000 = some 0 ∧ Params.defaults.regSelect 0x2007 = some 7 ∧
    Params.defaults.regSelect 0x2008 = none := by decide

theorem witness_DefaultWindowSelectsEightOffsets :
    Params.defaults.regMap = .window ∧ ({ Params.defaults with regBase := 0xFFFC }).regSelect 0xFFFF = some 3 ∧
    ({ Params.defaults with regBase := 0xFFFC }).regSelect 0x0000 = none := by decide

theorem witness_DecodingIsTotal : Params.total (mk .expectHigh 0 0 0).params := by decide

theorem witness_RawFormBelongsToAgent : Instr.wf Params.defaults (.reservedHost 15) = true := by decide

theorem witness_PseudoInstructionsDoWhatTheySay :
    (mk .expectHigh 0x1234 0x80 4).w = .expectHigh ∧ (mk .expectLow 0x1234 0x80 4).w = .expectLow ∧
    (0x2108 : Addr).extractLsb' 8 8 ≠ (0x2108 : Addr).extractLsb' 0 8 ∧
    (mk .expectLow 0x1234 0x80 4).params.ctrlIncBit = 2 := by decide

theorem witness_SetaddrFromExpectLowSwapsHalves : (mk .expectLow 0x1234 0x80 4).w = .expectLow := by decide

theorem witness_StepRunsFirstPendingOperation :
    ({ mk .expectHigh 0 0 0 with inputs := [.reg 0x200] }).inputs = .reg 0x200 :: [] ∧
    Instr.wf (mk .expectHigh 0 0 0).params (.rdUnmapped 0x4016) = true ∧ (mk .expectHigh 0 0 0).inputs = [] := by decide

theorem witness_FetchedTableWordRuns :
    State.reset.params = Params.defaults ∧ decodeTableWord 16 0xFFF = some (.wrData 0xFF) ∧
    decodeTableWord 8 4 = some (.decodeTile 0) := by decide

theorem witness_RunIsSequenceOfMeanings :
    ∀ i ∈ [Instr.wrAddr 1, .rdUnmapped 0x4016, .decodeTile 3], i.wf (mk .expectHigh 0 0 0).params = true := by decide

theorem witness_OnlyOwnersWriteEachElement :
    nextIs (exec (.wrAddr 1) (mk .expectHigh 0 0 0)) (fun t => t.w != .expectHigh && t.v != .ofAddr 0) = true ∧
    nextIs (exec .rdStatus (mk .expectHigh 0 0x80 0)) (fun t => t.status != 0x80) = true ∧
    nextIs (exec (.wrCtrl 1) (mk .expectHigh 0 0 0)) (fun t => t.ctrl != 0) = true ∧
    nextIs (exec (.wrData 1) (mk .expectHigh 0 0 0)) (fun t => t.vram != [] && Memory.read t.vram 0 != 0) = true := by decide

theorem witness_ModelFieldsFrame : isNext (exec .rdCtrl (mk .expectHigh 0 0 0)) = true := by decide

theorem witness_DataPortFrame :
    isNext (exec .rdData (mk .expectHigh 0xFFFF 0 0)) = true ∧ isNext (exec (.wrData 1) (mk .expectHigh 0xFFFF 0 0)) = true := by
  decide

theorem witness_StrideFollowsCtrlAtEachAccess :
    let s := mk .expectLow 0xFFFF 0 4 [(1, 2)]
    s.params.vramSize = 0x10000 ∧ Memory.wf s.vram ∧ s.params.dataReadMode = .directIncrement ∧
    Instr.rdData ∈ [Instr.rdData, .wrData 1] ∧ Instr.wrData 2 ∈ [Instr.rdData, .wrData 2] := by decide

theorem witness_StepKeepsInvariant :
    let s := { mk .expectHigh 0x2108 0 0 [(1, 2), (0xFFFF, 3)] with inputs := [.reg 0xF55] }
    State.Inv s ∧ isNext (step s) = true := by decide

end Sys2Proof.Tests
end

section
/-! PROOFS. How operations read and write STATUS (10_state.md R31), and power-on (R29). -/

namespace Sys2Proof.Machine

/-! ### The bits of STATUS -/

theorem vblankMask_getLsbD_vblankBit (p : Params) : (vblankMask p).getLsbD p.vblankBit = true := by
  simp [vblankMask, -BitVec.getLsbD_eq_getElem]

/-- A status read clears VBLANK (R65). -/
theorem clearVblank_getLsbD_vblankBit (p : Params) (status : Byte) :
    (clearVblank p status).getLsbD p.vblankBit = false := by
  have hm := vblankMask_getLsbD_vblankBit p
  rw [clearVblank, BitVec.getLsbD_and, BitVec.getLsbD_not, hm]
  simp

/-- The VBLANK bit of the byte a status read returns (R65). -/
theorem statusReadByte_getLsbD_vblankBit (p : Params) (status : Byte) :
    (statusReadByte p status).getLsbD p.vblankBit =
      match p.statusReadValue with
      | .preClear => status.getLsbD p.vblankBit
      | .postClear => false := by
  unfold statusReadByte
  cases p.statusReadValue with
  | preClear => rfl
  | postClear => exact clearVblank_getLsbD_vblankBit p status

/-- A bit of STATUS after a status event: set wins over clear, clear over the old bit (R102). -/
theorem statusAfterEvent_getLsbD (status m c : Byte) {n : Nat} (hn : n < 8) :
    (statusAfterEvent status m c).getLsbD n =
      if m.getLsbD n then true else if c.getLsbD n then false else status.getLsbD n := by
  rw [statusAfterEvent, BitVec.getLsbD_or, BitVec.getLsbD_and, BitVec.getLsbD_not, decide_eq_true hn]
  cases m.getLsbD n <;> cases c.getLsbD n <;> simp

/-! ### STATUS after an operation -/

/-- The STATUS an operation leaves, from the STATUS it finds: three operations write it (R31). -/
def statusAfter (p : Params) (status : Byte) : Instr → Byte
  | .rdStatus => clearVblank p status
  | .statusEvent m c => statusAfterEvent status m c
  | .reset => resetStatus p
  | .rdCtrl | .rdR1 | .rdR3 | .rdR4 | .rdScroll | .rdAddr | .rdData | .rdUnmapped _ => status
  | .wrCtrl _ | .wrR1 _ | .wrStatus _ | .wrR3 _ | .wrR4 _ | .wrScroll _ | .wrAddr _ | .wrData _ => status
  | .wrUnmapped _ _ | .tick | .decodeTile _ | .reservedHost _ => status

@[simp] theorem latchWriteHalf_params (b : Byte) (s : State) : (latchWriteHalf b s).params = s.params := by
  rw [latchWriteHalf_rest, State.setW_params, State.setV_params]

@[simp] theorem latchWriteHalf_status (b : Byte) (s : State) : (latchWriteHalf b s).status = s.status := by
  rw [latchWriteHalf_rest, State.setW_status, State.setV_status]

/-- A completing operation keeps the parameters and leaves the STATUS that `statusAfter` says. -/
theorem exec_params_status {i : Instr} {s t : State} (h : exec i s = .next t) :
    t.params = s.params ∧ t.status = statusAfter s.params s.status i := by
  obtain ⟨rfl, hi⟩ | ⟨rfl, hi⟩ | ⟨rfl, rfl⟩ | ⟨rfl, -, -, rfl⟩ | ⟨d, rfl, rfl⟩ | ⟨b, rfl, rfl⟩ | ⟨d, rfl, -, rfl⟩ |
    ⟨rfl, rfl⟩ | ⟨m, c, rfl, rfl⟩ | ⟨n, g, rfl, -, -, rfl⟩ | ⟨n, rfl, -, rfl⟩ := exec_next_cases h
  · obtain ⟨_, rfl⟩ | ⟨_, rfl⟩ | ⟨_, rfl⟩ | ⟨_, rfl⟩ | ⟨_, rfl⟩ | ⟨_, rfl⟩ | ⟨_, _, rfl⟩ | rfl := hi <;>
      exact ⟨rfl, rfl⟩
  · obtain rfl | rfl | rfl | rfl | rfl | rfl | ⟨rfl, -⟩ := hi <;> exact ⟨rfl, rfl⟩
  pick_goal 4 -- `wrAddr`; every other update is one of a known field
  · exact ⟨latchWriteHalf_params b s, latchWriteHalf_status b s⟩
  all_goals exact ⟨rfl, rfl⟩

theorem exec_params {i : Instr} {s t : State} (h : exec i s = .next t) : t.params = s.params :=
  (exec_params_status h).1

theorem exec_status {i : Instr} {s t : State} (h : exec i s = .next t) :
    t.status = statusAfter s.params s.status i :=
  (exec_params_status h).2

/-- Three operations write STATUS (R31). -/
theorem statusAfter_ne {p : Params} {status : Byte} {i : Instr} (h : statusAfter p status i ≠ status) :
    i = .rdStatus ∨ (∃ m c, i = .statusEvent m c) ∨ i = .reset := by
  cases i with
  | rdStatus => exact .inl rfl
  | statusEvent m c => exact .inr (.inl ⟨m, c, rfl⟩)
  | reset => exact .inr (.inr rfl)
  | _ => exact absurd rfl h

/-! ### STATUS before an operation -/

theorem readGrid_setStatus (n : Nat) (s : State) (x : Byte) : readGrid n (s.setStatus x) = readGrid n s := rfl

theorem latchWriteHalf_setStatus (b : Byte) (s : State) (x : Byte) :
    latchWriteHalf b (s.setStatus x) = (latchWriteHalf b s).setStatus x := by
  cases h : s.w <;> simp only [latchWriteHalf, State.setStatus_w, h] <;> rfl

/-- An operation that is not a status read does not read STATUS: with another STATUS before it, only the STATUS it
leaves differs. -/
theorem exec_setStatus {i : Instr} (hi : i ≠ .rdStatus) (s : State) (x : Byte) :
    exec i (s.setStatus x) = mapNext (·.setStatus (statusAfter s.params x i)) (exec i s) := by
  cases i with
  | rdStatus => exact absurd rfl hi
  | rdData =>
    simp only [exec, execRdData, State.setStatus_params]
    rw [show memRead (s.setStatus x).vAddr (s.setStatus x) = memRead s.vAddr s from rfl]
    cases memRead s.vAddr s with
    | error e => rfl
    | ok b => cases s.params.dataReadMode <;> rfl
  | wrData d =>
    simp only [exec, execWrData]
    by_cases hv : s.vAddr.toNat < s.params.vramSize
    · have hv' : (s.setStatus x).vAddr.toNat < (s.setStatus x).params.vramSize := hv
      rw [memWrite_ok hv, memWrite_ok hv']
      rfl
    · have hv' : ¬ (s.setStatus x).vAddr.toNat < (s.setStatus x).params.vramSize := hv
      rw [memWrite_error hv, memWrite_error hv']
      rfl
  | wrAddr b => simp only [exec, execWrAddr, latchWriteHalf_setStatus, mapNext, statusAfter]
  | wrScroll d =>
    simp only [exec, execWrScroll, State.setStatus_params]
    cases s.params.scrollPolicy <;> rfl
  | decodeTile n =>
    simp only [exec, execDecodeTile, readGrid_setStatus]
    split
    · cases readGrid n s <;> rfl
    · rfl
  | rdCtrl | rdR1 | rdR3 | rdR4 | rdScroll | rdAddr | wrCtrl _ | wrR1 _ | wrStatus _ | wrR3 _ | wrR4 _
  | rdUnmapped _ | wrUnmapped _ _ | reset | statusEvent _ _ | tick | reservedHost _ => rfl

/-! ### VBLANK and power-on -/

/-- Only a status read, a status event and reset change VBLANK; the first clears it, the last sets it (R31). -/
theorem vblank_changed_cases {s t : State} {i : Instr} (h : exec i s = .next t)
    (hne : t.status.getLsbD t.params.vblankBit ≠ s.status.getLsbD s.params.vblankBit) :
    (i = .rdStatus ∧ t.status.getLsbD t.params.vblankBit = false) ∨ (∃ m c, i = .statusEvent m c) ∨
    (i = .reset ∧ t.status.getLsbD t.params.vblankBit = true) := by
  rw [exec_params h, exec_status h] at hne ⊢
  have hstatus : statusAfter s.params s.status i ≠ s.status := fun heq => hne (by rw [heq])
  obtain rfl | hevent | rfl := statusAfter_ne hstatus
  · exact .inl ⟨rfl, clearVblank_getLsbD_vblankBit s.params s.status⟩
  · exact .inr (.inl hevent)
  · exact .inr (.inr ⟨rfl, vblankMask_getLsbD_vblankBit s.params⟩)

/-- Settles O19: `statusAfter` gives the STATUS every operation leaves, and only a status read reads the STATUS it
finds. -/
theorem vblankReadersAndWriters : Obligations.VblankReadersAndWriters := by
  refine ⟨fun s => ⟨?read, ?event, ?reset⟩, fun s t i => vblank_changed_cases, fun s t i x hi h => ?other⟩
  case read =>
    exact ⟨_, _, rfl, clearVblank_getLsbD_vblankBit s.params s.status, rfl,
      statusReadByte_getLsbD_vblankBit s.params s.status⟩
  case event => exact fun m c => ⟨_, rfl, statusAfterEvent_getLsbD s.status m c s.params.vblankBit.isLt⟩
  case reset => exact ⟨_, rfl, vblankMask_getLsbD_vblankBit s.params⟩
  case other =>
    refine ⟨statusAfter s.params x i, ?_⟩
    calc exec i (s.setStatus x)
        = mapNext (·.setStatus (statusAfter s.params x i)) (exec i s) := exec_setStatus hi s x
      _ = .next (t.setStatus (statusAfter s.params x i)) := by rw [h, mapNext]

/-- Settles O24: power-on is the state `resetBlock_eq` gives for the constructed block, whose draw `n` went to CTRL. -/
theorem powerOnIsConstructionThenReset : Obligations.PowerOnIsConstructionThenReset := by
  intro p m n ops
  rw [powerOn, resetBlock_eq]
  exact ⟨rfl, rfl, rfl, rfl, rfl, rfl⟩

end Sys2Proof.Machine
end

section
/-! PROOFS. Formats and decoding (30_encoding.md R49 to R54): the layout of a format-T word, that every raw operation
decodes to an operation of its own format, and that no bus access is refused or faults at total parameters. -/

namespace Sys2Proof

/-! ### Format T -/

/-- The layout of R50, as shifted fields. -/
theorem wordT_eq_or (write : Bool) (k : Offset) (d : Byte) :
    wordT write k d = (if write then 0x800 else 0x000) ||| (k.setWidth 12 <<< 8) ||| d.setWidth 12 := by
  have hk : k.toNat <<< 8 < 4096 := by
    have := k.isLt
    rw [Nat.shiftLeft_eq]
    omega
  have hk' : k.toNat < 4096 := by omega
  have hd : d.toNat < 4096 := by omega
  apply BitVec.eq_of_toNat_eq
  rw [wordT, BitVec.toNat_append, BitVec.toNat_append, Nat.shiftLeft_or_distrib]
  cases write <;> simp [Nat.mod_eq_of_lt, hk, hk', hd]

/-- The layout of R50, as a sum. -/
theorem wordT_toNat (write : Bool) (k : Offset) (d : Byte) :
    (wordT write k d).toNat = 0x800 * write.toNat + 0x100 * k.toNat + d.toNat := by
  rw [wordT, BitVec.toNat_append, BitVec.toNat_append, ← Nat.shiftLeft_add_eq_or_of_lt k.isLt,
    ← Nat.shiftLeft_add_eq_or_of_lt d.isLt, Nat.shiftLeft_eq, Nat.shiftLeft_eq, BitVec.toNat_ofBool]
  omega

theorem decode_reg_wordT (p : Params) (write : Bool) (k : Offset) (d : Byte) :
    decode p (.reg (wordT write k d)) = if write then writeAt k d else readAt k :=
  decodeT_wordT write k d

/-- Settles O39: a word is the format-T word of its own fields, and its number is their weighted sum. -/
theorem registerWordLayout : Obligations.RegisterWordLayout := by
  refine ⟨wordT_eq_or, fun p w => ?_⟩
  obtain ⟨write, k, d, rfl⟩ : ∃ write k d, wordT write k d = w := ⟨_, _, _, wordT_fields w⟩
  have hk := k.isLt
  have hd := d.isLt
  refine ⟨k, d, ?_⟩
  rw [wordT_toNat, decode_reg_wordT]
  cases write with
  | false => exact ⟨by simp; omega, fun h => by simp at h; omega, fun _ => rfl⟩
  | true => exact ⟨by simp; omega, fun _ => rfl, fun h => by simp at h; omega⟩

/-- Settles O40: a bus access with an offset decodes as that offset's format-T word does. -/
theorem busAccessGoesThroughRegSelect : Obligations.BusAccessGoesThroughRegSelect :=
  fun p write _ d => ⟨fun k h => by rw [decode_bus_mapped h, decode_reg_wordT], fun h => decode_bus_unmapped h write d⟩

/-! ### What decoding gives -/

theorem readAt_agent (k : Offset) : (readAt k).agent = .busMaster := by
  unfold readAt
  split <;> rfl

theorem writeAt_agent (k : Offset) (d : Byte) : (writeAt k d).agent = .busMaster := by
  unfold writeAt
  split <;> rfl

theorem readAt_wf (p : Params) (k : Offset) : (readAt k).wf p = true := by
  unfold readAt
  split <;> rfl

theorem writeAt_wf (p : Params) (k : Offset) (d : Byte) : (writeAt k d).wf p = true := by
  unfold writeAt
  split <;> rfl

theorem decodeT_wf (p : Params) (w : BitVec 12) : (decodeT w).wf p = true := by
  unfold decodeT
  split
  · exact writeAt_wf p _ _
  · exact readAt_wf p _

/-- The codes R53 gives no operation are the ones it reserves. -/
theorem reservedHostCode_of_ne {c : BitVec 4} (h1 : c ≠ 0b0001) (h2 : c ≠ 0b0010) (h3 : c ≠ 0b0011)
    (h4 : c ≠ 0b0100) : reservedHostCode c = true := by
  decide +revert

theorem decodeH_wf (p : Params) (c : BitVec 4) (o : HostOperands) : (decodeH c o).wf p = true := by
  unfold decodeH
  split_ifs with h1 h2 h3 h4
  case neg => exact reservedHostCode_of_ne h1 h2 h3 h4
  all_goals rfl

theorem decodeH_mem (c : BitVec 4) (o : HostOperands) : decodeH c o ∈
    [Instr.reset, .statusEvent o.setMask o.clrMask, .tick, .decodeTile o.tileIndex, .reservedHost c] := by
  unfold decodeH
  split_ifs <;> simp

/-- Decoding gives an operation under the parameters it decodes with (R54). -/
theorem decode_wf (p : Params) (op : RawOp) : (decode p op).wf p = true := by
  cases op with
  | bus write a d =>
    cases h : p.regSelect a with
    | some k =>
      rw [decode_bus_mapped h]
      cases write
      · exact readAt_wf p k
      · exact writeAt_wf p k d
    | none =>
      rw [decode_bus_unmapped h]
      cases write <;> exact congrArg Option.isNone h
  | reg w => exact decodeT_wf p w
  | host c o => exact decodeH_wf p c o

theorem decode_bus_agent (p : Params) (write : Bool) (a : Addr) (d : Byte) :
    (decode p (.bus write a d)).agent = .busMaster := by
  cases h : p.regSelect a with
  | some k =>
    rw [decode_bus_mapped h]
    cases write
    · exact readAt_agent k
    · exact writeAt_agent k d
  | none =>
    rw [decode_bus_unmapped h]
    cases write <;> rfl

end Sys2Proof

namespace Sys2Proof.Machine

/-- No operation of the bus master faults or is refused at total parameters (R54). -/
theorem exec_busMaster_completes {s : State} (hp : Params.total s.params) {i : Instr} (hi : i.agent = .busMaster) :
    ∃ t, exec i s = .next t := by
  obtain ⟨hsize, hscroll⟩ := hp
  have hv : s.vAddr.toNat < s.params.vramSize := by
    rw [hsize]
    exact s.vAddr.isLt
  cases i with
  | rdData =>
    simp only [exec, execRdData, memRead_ok hv, orFault]
    cases s.params.dataReadMode <;> exact ⟨_, rfl⟩
  | wrData d =>
    simp only [exec, execWrData, memWrite_ok hv, orFault]
    exact ⟨_, rfl⟩
  | wrScroll d =>
    simp only [exec, execWrScroll, hscroll]
    exact ⟨_, rfl⟩
  | reset | statusEvent _ _ | tick | decodeTile _ | reservedHost _ => cases hi
  | _ => exact ⟨_, rfl⟩

/-- Settles O42: a bus access decodes to an operation of the bus master, which `exec_busMaster_completes` performs. -/
theorem decodingIsTotal : Obligations.DecodingIsTotal :=
  ⟨decode_wf, decode_bus_agent, fun _ => decodeH_mem,
    fun s write a d hp => exec_busMaster_completes hp (decode_bus_agent s.params write a d)⟩

end Sys2Proof.Machine
end

section
/-! PROOFS. Tile decoding, in range and above (43_tile_decoder.md R90, R91, R97), and where a tile lies by pattern
table (30_encoding.md R61). -/

namespace Sys2Proof.Machine

/-- In range, the loop of R90 gives the pure decoder's grid (R97) of the tile's bytes. -/
theorem readGrid_eq_decode16 {i : Nat} {s : State} (hs : s.params.wf = true) (hi : i ≤ 511) :
    readGrid i s = .ok (decode16 (tileBytes i s)) := by
  rw [readGrid_ok hs hi]
  simp [decode16, tileBytes, plane1Addr, plane2Addr, add_assoc]

/-- The bytes of a tile in range, by address: none of the addresses wraps. -/
theorem tileBytes_eq {i : Nat} (s : State) (hi : i ≤ 511) :
    tileBytes i s = Vector.ofFn fun k : Fin 16 => Memory.read s.vram (16 * i + k) := by
  have haddr (k : Fin 16) : (BitVec.ofNat 16 (16 * i + k)).toNat = 16 * i + k := by
    rw [BitVec.toNat_ofNat]
    omega
  simp only [tileBytes, State.vramByte, haddr]

/-- `DECODE_TILE` in range answers the grid of the tile's sixteen bytes. -/
theorem exec_decodeTile_inRange {i : Nat} {s : State} (hs : s.params.wf = true) (hi : i ≤ 511) :
    exec (.decodeTile i) s = .next (s.pushAnswer
      (.tile (decode16 (Vector.ofFn fun k : Fin 16 => Memory.read s.vram (16 * i + k))))) := by
  simp only [exec, execDecodeTile, (tileInRange_iff i).mpr hi, if_true, readGrid_eq_decode16 hs hi, orFault,
    tileBytes_eq s hi]

/-- `DECODE_TILE` past the pattern tables answers `OutOfRange` (R91, R106). -/
theorem exec_decodeTile_outOfRange {i : Nat} (s : State) (hi : 512 ≤ i) :
    exec (.decodeTile i) s = .next (s.pushAnswer (.outOfRange i)) := by
  have hrange : ¬ tileInRange i = true := by
    rw [tileInRange_iff]
    omega
  simp only [exec, execDecodeTile, if_neg hrange, raiseOutOfRange]

/-- Settles O29: tile `i` lies at `16 * i`, which from 256 up is `0x1000 + 16 * (i - 256)`. -/
theorem tileIndexSelectsPatternTable : Obligations.TileIndexSelectsPatternTable := by
  intro s i hs
  refine ⟨fun hi => exec_decodeTile_inRange hs (by omega), fun hlo hhi => ?_, exec_decodeTile_outOfRange s⟩
  have haddr : 0x1000 + 16 * (i - 256) = 16 * i := by omega
  rw [haddr]
  exact exec_decodeTile_inRange hs hhi

end Sys2Proof.Machine
end

section
/-! PROOFS. Runs as sequences of meanings (20_memory.md R44), and what the pseudo-instructions of 30_encoding.md R64
do. -/

namespace Sys2Proof.Machine

/-! ### Runs -/

theorem exec_inputs {i : Instr} {s t : State} (h : exec i s = .next t) : t.inputs = s.inputs := by
  have hsame : exec i (s.withInputs s.inputs) = mapNext (·.withInputs s.inputs) (exec i s) :=
    exec_withInputs i s s.inputs
  rw [show s.withInputs s.inputs = s from rfl, h, mapNext, Host.Outcome.next.injEq] at hsame
  rw [hsame]
  rfl

/-- A run performs the meanings of the raw operations, decoded under the parameters it starts with. -/
theorem runOps_eq_execAll (ops : List RawOp) (s : State) :
    runOps ops s = execAll (ops.map (decode s.params)) s := by
  induction ops generalizing s with
  | nil => rfl
  | cons op ops ih =>
    rw [runOps_cons, List.map_cons, execAll]
    cases h : exec (decode s.params op) s with
    | next t =>
      have hrun := ih t
      rw [exec_params h] at hrun
      rw [← exec_inputs h]
      exact hrun
    | fault e => rfl
    | refused r => rfl

theorem execAll_singleton (i : Instr) (s : State) : execAll [i] s = exec i s := by
  rw [execAll]
  cases exec i s <;> rfl

/-! ### The two-write sequence -/

/-- Two Video Address writes from `ExpectHigh`: the first byte is the high half. -/
theorem execAll_wrAddr_wrAddr_high {s : State} (h : s.w = .expectHigh) (b c : Byte) :
    execAll [.wrAddr b, .wrAddr c] s = .next ((s.setV ⟨b, c⟩).setW .expectHigh) := by
  simp only [execAll, exec, execWrAddr, latchWriteHalf_high h, latchWriteHalf_low (State.setW_w _ _)]
  rfl

/-- Two Video Address writes from `ExpectLow`: the first byte is the low half. -/
theorem execAll_wrAddr_wrAddr_low {s : State} (h : s.w = .expectLow) (b c : Byte) :
    execAll [.wrAddr b, .wrAddr c] s = .next ((s.setV ⟨c, b⟩).setW .expectLow) := by
  simp only [execAll, exec, execWrAddr, latchWriteHalf_low h, latchWriteHalf_high (State.setW_w _ _)]
  rfl

/-- A status read forces `ExpectHigh`, so that the two writes after it give their address from any phase. -/
theorem execAll_rdStatus_wrAddr_wrAddr (s : State) (b c : Byte) :
    ∃ t, execAll [.rdStatus, .wrAddr b, .wrAddr c] s = .next t ∧ t.v = ⟨b, c⟩ ∧ t.w = .expectHigh ∧
      t.status = clearVblank s.params s.status :=
  ⟨_, (execAll_cons_next rfl).trans (execAll_wrAddr_wrAddr_high rfl b c), rfl, rfl, rfl⟩

/-! ### Expansions -/

section
variable (p : Params)

theorem decode_expandLine_setaddr (a : Addr) : (expandLine p (.setaddr a)).map (decode p) =
    [.wrAddr (a.extractLsb' 8 8), .wrAddr (a.extractLsb' 0 8)] := by
  simp only [expandLine, expandSetaddr, List.map_cons, List.map_nil, decode_reg_wordT]
  rfl

theorem decode_expandLine_setaddrSync (a : Addr) : (expandLine p (.setaddrSync a)).map (decode p) =
    [.rdStatus, .wrAddr (a.extractLsb' 8 8), .wrAddr (a.extractLsb' 0 8)] := by
  simp only [expandLine, expandSetaddr, List.map_cons, List.map_nil, decode_reg_wordT]
  rfl

theorem decode_expandLine_setinc1 : (expandLine p .setinc1).map (decode p) = [.wrCtrl 0x00] := by
  simp only [expandLine, List.map_cons, List.map_nil, decode_reg_wordT]
  rfl

theorem decode_expandLine_setinc32 : (expandLine p .setinc32).map (decode p) =
    [.wrCtrl ((1 : Byte) <<< p.ctrlIncBit.val)] := by
  simp only [expandLine, List.map_cons, List.map_nil, decode_reg_wordT]
  rfl

theorem decode_expandLine_fill (n : Nat) (b : Byte) : (expandLine p (.fill n b)).map (decode p) =
    List.replicate n (.wrData b) := by
  simp only [expandLine, List.map_replicate, decode_reg_wordT]
  rfl

end

/-! ### The increment size -/

theorem incSize_zero (p : Params) : incSize p 0x00 = 1 := by
  simp [incSize]

theorem incSize_ctrlIncBit (p : Params) : incSize p ((1 : Byte) <<< p.ctrlIncBit.val) = 32 := by
  have hbit : ((1 : Byte) <<< p.ctrlIncBit.val).getLsbD p.ctrlIncBit = true := by
    simp [-BitVec.getLsbD_eq_getElem]
  rw [incSize, if_pos hbit]

/-- Settles O46: the run of an expansion is the sequence of its meanings, which the lemmas above give. -/
theorem pseudoInstructionsDoWhatTheySay : Obligations.PseudoInstructionsDoWhatTheySay := by
  intro s a n b
  simp only [runOps_eq_execAll, decode_expandLine_setaddr, decode_expandLine_setaddrSync, decode_expandLine_setinc1,
    decode_expandLine_setinc32, decode_expandLine_fill, execAll_singleton]
  have hv : VideoAddress.toAddr ⟨a.extractLsb' 8 8, a.extractLsb' 0 8⟩ = a := VideoAddress.toAddr_ofAddr a
  refine ⟨trivial, trivial, ?high, ?low, ?sync, trivial, ?inc1, trivial, ?bit2, ?inc32, trivial⟩
  case high => exact fun hw => ⟨_, execAll_wrAddr_wrAddr_high hw _ _, hv, rfl⟩
  case low =>
    intro hw hne
    refine ⟨_, execAll_wrAddr_wrAddr_low hw _ _, fun ha => hne ?_⟩
    have hswap : (⟨a.extractLsb' 0 8, a.extractLsb' 8 8⟩ : VideoAddress) = ⟨a.extractLsb' 8 8, a.extractLsb' 0 8⟩ :=
      VideoAddress.toAddr_injective (ha.trans hv.symm)
    exact congrArg VideoAddress.lo hswap
  case sync =>
    obtain ⟨t, hrun, htv, htw, hstatus⟩ := execAll_rdStatus_wrAddr_wrAddr s (a.extractLsb' 8 8) (a.extractLsb' 0 8)
    refine ⟨t, hrun, ?_, htw, ?_⟩
    · rw [State.vAddr, htv, hv]
    · rw [hstatus, clearVblank_getLsbD_vblankBit]
  case inc1 => exact ⟨_, rfl, incSize_zero s.params⟩
  case bit2 =>
    intro hbit
    rw [hbit]
    rfl
  case inc32 => exact ⟨_, rfl, incSize_ctrlIncBit s.params⟩

end Sys2Proof.Machine
end

section
/-! PROOFS. The register reads and the unmapped accesses (40_register_reads.md R65 to R73, 41_register_writes.md
R82). -/

namespace Sys2Proof.Machine

/-- A format-T word given by its bits above `DATA`: it decodes by the direction and the offset of those bits. -/
theorem decode_reg_or {write : Bool} {k : Offset} {w : BitVec 12}
    (hw : (if write then 0x800 else 0x000) ||| (k.setWidth 12 <<< 8) = w) (p : Params) (d : Byte) :
    decode p (.reg (w ||| d.setWidth 12)) = if write then writeAt k d else readAt k := by
  rw [← hw, ← wordT_eq_or, decode_reg_wordT]

/-- A read word `k << 8`, whatever its `DATA` bits, decodes to the read at offset `k` (R51). -/
theorem decode_reg_read {k : Offset} {w : BitVec 12} (hw : k.setWidth 12 <<< 8 = w) (p : Params) (x : Byte) :
    decode p (.reg (w ||| x.setWidth 12)) = readAt k :=
  decode_reg_or (write := false) (by simpa using hw) p x

/-! ### The status read -/

theorem exec_rdStatus (s : State) :
    exec .rdStatus s = .next (((s.setStatus (clearVblank s.params s.status)).setW .expectHigh).pushAnswer
      (.busByte (statusReadByte s.params s.status))) := rfl

/-- Settles O1: offset 2 is the status read, and `exec_rdStatus` is its whole next state. -/
theorem rdStatusReturnsByteClearsVblankForcesHigh : Obligations.RdStatusReturnsByteClearsVblankForcesHigh :=
  ⟨decode_reg_read (k := 2) rfl, exec_rdStatus⟩

/-! ### The data-port read -/

section
variable {s : State}

theorem exec_rdData_directIncrement (hmode : s.params.dataReadMode = .directIncrement)
    (hv : s.vAddr.toNat < s.params.vramSize) :
    exec .rdData s = .next ((latchAdvance s).pushAnswer (.busByte (s.vramByte s.vAddr))) := by
  simp only [exec, execRdData, memRead_ok hv, orFault, hmode, returnByte]

theorem exec_rdData_noEffect (hmode : s.params.dataReadMode = .noEffect) (hv : s.vAddr.toNat < s.params.vramSize) :
    exec .rdData s = returnDraw s := by
  simp only [exec, execRdData, memRead_ok hv, orFault, hmode]

/-- Past `VRAM_SIZE` the read faults, under either `DATA_READ_MODE` (log entry 17). -/
theorem exec_rdData_outOfRange (hv : s.params.vramSize ≤ s.vAddr.toNat) :
    exec .rdData s = .fault (.vramOutOfRange s.vAddr) := by
  simp only [exec, execRdData, memRead_error (Nat.not_lt.mpr hv), orFault]

end

/-- Settles O2: offset 7 is the data-port read, which has one equation for each mode and one for the fault. -/
theorem rdDataReturnsByteAtVThenAdvances : Obligations.RdDataReturnsByteAtVThenAdvances :=
  ⟨decode_reg_read (k := 7) rfl, fun _ =>
    ⟨exec_rdData_directIncrement, fun _ => exec_rdData_outOfRange, exec_rdData_noEffect⟩⟩

/-! ### The reads that return a draw -/

/-- The six unreadable registers share one meaning (R67 to R72). -/
theorem exec_unreadable {i : Instr} (hi : i ∈ [Instr.rdCtrl, .rdR1, .rdR3, .rdR4, .rdScroll, .rdAddr]) (s : State) :
    exec i s = returnDraw s := by
  simp only [List.mem_cons, List.not_mem_nil, or_false] at hi
  obtain rfl | rfl | rfl | rfl | rfl | rfl := hi <;> rfl

/-- Settles O3: offsets 0, 1, 3, 4, 5 and 6 are the six reads, and `returnDraw_eq` is the next state of each. -/
theorem unreadableRegisterReadsReturnDraw : Obligations.UnreadableRegisterReadsReturnDraw := by
  refine ⟨fun p x => ⟨?_, ?_, ?_, ?_, ?_, ?_⟩, fun s i hi => (exec_unreadable hi s).trans (returnDraw_eq s)⟩
  · exact decode_reg_read (k := 0) rfl p x
  · exact decode_reg_read (k := 1) rfl p x
  · exact decode_reg_read (k := 3) rfl p x
  · exact decode_reg_read (k := 4) rfl p x
  · exact decode_reg_read (k := 5) rfl p x
  · exact decode_reg_read (k := 6) rfl p x

/-! ### Unmapped accesses -/

theorem exec_rdUnmapped (a : Addr) (s : State) : exec (.rdUnmapped a) s = .next s := rfl

theorem exec_wrUnmapped (a : Addr) (d : Byte) (s : State) : exec (.wrUnmapped a d) s = .next s := rfl

/-- Settles O10: outside the window `decode_bus_unmapped` gives the two unmapped accesses, which do nothing. -/
theorem unmappedAccessesChangeNothing : Obligations.UnmappedAccessesChangeNothing :=
  ⟨fun _ _ d h => ⟨decode_bus_unmapped h false d, decode_bus_unmapped h true d⟩,
    fun s a d => ⟨exec_rdUnmapped a s, exec_wrUnmapped a d s⟩⟩

end Sys2Proof.Machine
end

section
/-! PROOFS. The register writes (41_register_writes.md R74 to R81), and how the halves of `V` lie in its 16 bits
(30_encoding.md R58). -/

namespace Sys2Proof.Machine

/-- A write word `0x800 | k << 8` with its `DATA` bits decodes to the write at offset `k`. -/
theorem decode_reg_write {k : Offset} {w : BitVec 12} (hw : 0x800 ||| (k.setWidth 12 <<< 8) = w) (p : Params)
    (d : Byte) : decode p (.reg (w ||| d.setWidth 12)) = writeAt k d :=
  decode_reg_or (write := true) hw p d

/-! ### The halves of V as bits -/

/-- The layout of R58, as shifted halves. -/
theorem VideoAddress.toAddr_eq_or (v : VideoAddress) : v.toAddr = (v.hi.setWidth 16 <<< 8) ||| v.lo.setWidth 16 := by
  rw [← BitVec.setWidth_append_eq_shiftLeft_setWidth_or, BitVec.setWidth_eq, VideoAddress.toAddr]

theorem VideoAddress.toAddr_and_lowMask (v : VideoAddress) : v.toAddr &&& 0x00FF = v.lo.setWidth 16 := by
  have hmask : (0x00FF : Addr) = 0#8 ++ BitVec.allOnes 8 := by decide
  rw [hmask, VideoAddress.toAddr, BitVec.and_append, BitVec.and_zero, BitVec.and_allOnes,
    BitVec.setWidth_eq_append (by decide), BitVec.cast_eq]

theorem VideoAddress.toAddr_and_highMask (v : VideoAddress) :
    v.toAddr &&& (0xFF00 : Addr) = v.hi.setWidth 16 <<< 8 := by
  have hmask : (0xFF00 : Addr) = BitVec.allOnes 8 ++ 0#8 := by decide
  have hshift : VideoAddress.toAddr ⟨v.hi, 0⟩ = v.hi.setWidth 16 <<< 8 :=
    (VideoAddress.toAddr_eq_or _).trans BitVec.or_zero
  rw [hmask, ← hshift, VideoAddress.toAddr, BitVec.and_append, BitVec.and_allOnes, BitVec.and_zero]
  rfl

/-! ### The Video Address write -/

section
variable {s : State}

theorem latchWriteHalf_high_vAddr (h : s.w = .expectHigh) (b : Byte) :
    (latchWriteHalf b s).vAddr = (b.setWidth 16 <<< 8) ||| (s.vAddr &&& 0x00FF) := by
  rw [latchWriteHalf_high h, State.vAddr, State.vAddr, VideoAddress.toAddr_and_lowMask]
  exact VideoAddress.toAddr_eq_or ⟨b, s.v.lo⟩

theorem latchWriteHalf_low_vAddr (h : s.w = .expectLow) (b : Byte) :
    (latchWriteHalf b s).vAddr = (s.vAddr &&& 0xFF00) ||| b.setWidth 16 := by
  rw [latchWriteHalf_low h, State.vAddr, State.vAddr, VideoAddress.toAddr_and_highMask]
  exact VideoAddress.toAddr_eq_or ⟨s.v.hi, b⟩

end

theorem exec_wrAddr (b : Byte) (s : State) : exec (.wrAddr b) s = .next (latchWriteHalf b s) := rfl

/-- Settles O7: offset 6 is `LatchWriteHalf`, whose `V` the two lemmas above give, one for each phase. -/
theorem wrAddrWritesOneHalfAndToggles : Obligations.WrAddrWritesOneHalfAndToggles := by
  refine ⟨decode_reg_write (k := 6) rfl, fun s b => ⟨latchWriteHalf b s, exec_wrAddr b s, fun hw => ?high,
    fun hw => ?low, latchWriteHalf_rest b s⟩⟩
  case high => exact ⟨latchWriteHalf_high_vAddr hw b, by rw [latchWriteHalf_w, hw, Phase.toggle]⟩
  case low => exact ⟨latchWriteHalf_low_vAddr hw b, by rw [latchWriteHalf_w, hw, Phase.toggle]⟩

/-! ### The data-port write -/

section
variable {s : State}

theorem exec_wrData (hv : s.vAddr.toNat < s.params.vramSize) (d : Byte) :
    exec (.wrData d) s = .next (latchAdvance (s.setVram (Memory.write s.vram s.vAddr.toNat d))) := by
  simp only [exec, execWrData, memWrite_ok hv, orFault]

theorem exec_wrData_outOfRange (hv : s.params.vramSize ≤ s.vAddr.toNat) (d : Byte) :
    exec (.wrData d) s = .fault (.vramOutOfRange s.vAddr) := by
  simp only [exec, execWrData, memWrite_error (Nat.not_lt.mpr hv), orFault]

end

/-- Settles O8: offset 7 is the data-port write; below `VRAM_SIZE` its next state is `exec_wrData`'s, and the laws of
`Memory.write` say what that memory reads. -/
theorem wrDataStoresAtVThenAdvances : Obligations.WrDataStoresAtVThenAdvances := by
  refine ⟨decode_reg_write (k := 7) rfl, fun s d hwf => ⟨fun hv => ?_, fun hv => exec_wrData_outOfRange hv d⟩⟩
  refine ⟨_, exec_wrData hv d, ?advance, ?stored, ?others, ?canonical, rfl⟩
  case advance => exact latchAdvance_vAddr _
  case stored => exact Memory.read_write_eq hwf _ d
  case others => exact fun a ha => Memory.read_write_ne ha.symm s.vram d
  case canonical => exact Memory.wf_write hwf _ d

/-! ### The other writes -/

theorem exec_wrCtrl (d : Byte) (s : State) : exec (.wrCtrl d) s = .next (s.setCtrl d) := rfl

/-- Settles O5: offset 0 is the control write, and `exec_wrCtrl` is its whole next state. -/
theorem wrCtrlStoresByte : Obligations.WrCtrlStoresByte :=
  ⟨decode_reg_write (k := 0) rfl, fun s d => exec_wrCtrl d s⟩

theorem exec_wrScroll_noEffect {s : State} (h : s.params.scrollPolicy = .noEffect) (d : Byte) :
    exec (.wrScroll d) s = .next s := by
  simp only [exec, execWrScroll, h, discardWrite]

theorem exec_wrScroll_refuse {s : State} (h : s.params.scrollPolicy = .refuse) (d : Byte) :
    exec (.wrScroll d) s = .refused .scrollWrite := by
  simp only [exec, execWrScroll, h]

/-- Settles O6: offset 5 is the scroll write, which has one equation for each `SCROLL_POLICY`. -/
theorem wrScrollFollowsPolicy : Obligations.WrScrollFollowsPolicy :=
  ⟨decode_reg_write (k := 5) rfl, fun _ d => ⟨fun h => exec_wrScroll_noEffect h d, fun h => exec_wrScroll_refuse h d⟩⟩

/-- The four writes that are always discarded share one meaning (R78 to R81). -/
theorem exec_discarded {d : Byte} {i : Instr} (hi : i ∈ [Instr.wrStatus d, .wrR1 d, .wrR3 d, .wrR4 d]) (s : State) :
    exec i s = .next s := by
  simp only [List.mem_cons, List.not_mem_nil, or_false] at hi
  obtain rfl | rfl | rfl | rfl := hi <;> rfl

/-- Settles O9: offsets 2, 1, 3 and 4 are the four writes, and `exec_discarded` is the next state of each. -/
theorem discardedWritesChangeNothing : Obligations.DiscardedWritesChangeNothing := by
  refine ⟨fun p d => ⟨?_, ?_, ?_, ?_⟩, fun s _ _ hi => exec_discarded hi s⟩
  · exact decode_reg_write (k := 2) rfl p d
  · exact decode_reg_write (k := 1) rfl p d
  · exact decode_reg_write (k := 3) rfl p d
  · exact decode_reg_write (k := 4) rfl p d

end Sys2Proof.Machine
end

section
/-! PROOFS. The latch state machine: the transition table of `(W, V)` (42_latch_state_machine.md R87). -/

namespace Sys2Proof.Machine

/-- Settles O12: every way an operation completes (`exec_next_cases`) is a row of the table; `latchWriteHalf` and
`latchAdvance` give the rows that compute a new `V`. -/
theorem latchTransitionTable : Obligations.LatchTransitionTable := by
  intro s t i h
  obtain ⟨rfl, hi⟩ | ⟨rfl, hi⟩ | ⟨rfl, rfl⟩ | ⟨rfl, hmode, -, rfl⟩ | ⟨d, rfl, rfl⟩ | ⟨b, rfl, rfl⟩ | ⟨d, rfl, -, rfl⟩ |
    ⟨rfl, rfl⟩ | ⟨m, c, rfl, rfl⟩ | ⟨n, g, rfl, -, -, rfl⟩ | ⟨n, rfl, -, rfl⟩ := exec_next_cases h
  · -- no statement
    obtain ⟨_, rfl⟩ | ⟨_, rfl⟩ | ⟨_, rfl⟩ | ⟨_, rfl⟩ | ⟨_, rfl⟩ | ⟨_, rfl⟩ | ⟨_, _, rfl⟩ | rfl := hi <;>
      exact ⟨rfl, rfl⟩
  · -- a draw returned: an unreadable register, or the data port under `NO_EFFECT`
    obtain rfl | rfl | rfl | rfl | rfl | rfl | ⟨rfl, hmode, -⟩ := hi
    pick_goal 7
    · exact ⟨rfl, by rw [hmode]; rfl⟩
    all_goals exact ⟨rfl, rfl⟩
  · exact ⟨rfl, rfl⟩ -- `rdStatus`
  · exact ⟨rfl, by rw [hmode]; exact latchAdvance_vAddr s⟩ -- `rdData` under `DIRECT_INCREMENT`
  · exact ⟨rfl, rfl⟩ -- `wrCtrl`
  · -- `wrAddr`, by the phase
    exact ⟨fun hw => by rw [latchWriteHalf_high hw]; exact ⟨rfl, rfl⟩,
      fun hw => by rw [latchWriteHalf_low hw]; exact ⟨rfl, rfl⟩⟩
  · exact ⟨rfl, latchAdvance_vAddr _⟩ -- `wrData`
  all_goals exact ⟨rfl, rfl⟩ -- `reset`, `statusEvent`, `decodeTile`

end Sys2Proof.Machine
end

section
/-! PROOFS. The grid of a tile decode pixel by pixel (43_tile_decoder.md R93, R97), and what a decode depends on
(R95). -/

namespace Sys2Proof.Machine

/-! ### The pixels of a decoded tile -/

/-- R93 as a number: plane 1 gives the low bit, plane 2 the high bit. -/
theorem pixelOf_toNat (p1 p2 : Byte) (c : Fin 8) :
    (pixelOf p1 p2 c).toNat = (p2.getLsbD (7 - c)).toNat * 2 + (p1.getLsbD (7 - c)).toNat := by
  unfold pixelOf
  cases p1.getLsbD (7 - c) <;> cases p2.getLsbD (7 - c) <;> rfl

theorem decode16_get (b : Vector Byte 16) (r c : Fin 8) :
    (decode16 b)[r][c] = pixelOf b[r.val] b[8 + r.val] c := by
  fin_cases r <;> exact rowOf_get _ _ c

theorem decode16_get_toNat (b : Vector Byte 16) (r c : Fin 8) :
    ((decode16 b)[r][c]).toNat = (b[8 + r.val].getLsbD (7 - c)).toNat * 2 + (b[r.val].getLsbD (7 - c)).toNat := by
  rw [decode16_get, pixelOf_toNat]

/-- Settles O27: up to 511 the grid is the pure decoder's, whose pixels `decode16_get_toNat` gives. -/
theorem decodeTileAnswersGridOrOutOfRange : Obligations.DecodeTileAnswersGridOrOutOfRange := by
  refine ⟨fun _ _ => rfl, fun s i hs => ⟨fun hi => ⟨_, exec_decodeTile_inRange hs (by omega), fun r c => ?pixel⟩,
    fun hi => exec_decodeTile_outOfRange s (by omega)⟩⟩
  case pixel =>
    rw [decode16_get_toNat, Vector.getElem_ofFn, Vector.getElem_ofFn, Nat.mul_comm, Nat.add_assoc]

/-- Settles O28: `decode16_get_toNat` is the law of the pure decoder, and `exec_decodeTile_inRange` its use. -/
theorem decodeTileIsPureDecoderOfBytes : Obligations.DecodeTileIsPureDecoderOfBytes :=
  ⟨decode16_get_toNat, fun _ _ hs hi => exec_decodeTile_inRange hs hi⟩

/-! ### What a decode depends on -/

theorem plane1Addr_toNat {i : Nat} (hi : i ≤ 511) (r : Fin 8) : (plane1Addr i r).toNat = 16 * i + r := by
  rw [plane1Addr, BitVec.toNat_ofNat]
  omega

theorem plane2Addr_toNat {i : Nat} (hi : i ≤ 511) (r : Fin 8) : (plane2Addr i r).toNat = 16 * i + (8 + r) := by
  rw [plane2Addr, BitVec.toNat_ofNat]
  omega

section
variable {s t : State} {i : Nat}

/-- A memory read depends on the parameters and the byte it reads, whether it succeeds or faults. -/
theorem memRead_congr (hp : s.params = t.params) {a : Addr} (hb : s.vramByte a = t.vramByte a) :
    memRead a s = memRead a t := by
  rw [memRead, memRead, hp, hb]

/-- The loop of R90 depends on the parameters and the sixteen bytes only, at any size of video memory. -/
theorem readGrid_congr (hp : s.params = t.params) (hi : i ≤ 511)
    (hb : ∀ k, k < 16 → Memory.read s.vram (16 * i + k) = Memory.read t.vram (16 * i + k)) :
    readGrid i s = readGrid i t := by
  have hplane1 (r : Fin 8) : memRead (plane1Addr i r) s = memRead (plane1Addr i r) t := by
    refine memRead_congr hp ?_
    rw [State.vramByte, State.vramByte, plane1Addr_toNat hi]
    exact hb r (by omega)
  have hplane2 (r : Fin 8) : memRead (plane2Addr i r) s = memRead (plane2Addr i r) t := by
    refine memRead_congr hp ?_
    rw [State.vramByte, State.vramByte, plane2Addr_toNat hi]
    exact hb (8 + r) (by omega)
  simp only [readGrid, readRow, hplane1, hplane2]

/-- Past the range check, `DECODE_TILE` is the loop of R90 and its answer. -/
theorem exec_decodeTile_eq_readGrid (hi : i ≤ 511) (s : State) :
    exec (.decodeTile i) s = orFault (readGrid i s) fun g => .next (s.pushAnswer (.tile g)) := by
  simp only [exec, execDecodeTile, (tileInRange_iff i).mpr hi, if_true]

/-- A completed decode only answers, and gives the same answer in every state with the same parameters and the same
sixteen bytes (R95). -/
theorem exec_decodeTile_next (h : exec (.decodeTile i) s = .next t) :
    ∃ x, t = s.pushAnswer x ∧ ∀ u : State, s.params = u.params →
      (∀ k, k < 16 → Memory.read s.vram (16 * i + k) = Memory.read u.vram (16 * i + k)) →
      exec (.decodeTile i) u = .next (u.pushAnswer x) := by
  by_cases hi : i ≤ 511
  · rw [exec_decodeTile_eq_readGrid hi] at h
    cases hg : readGrid i s with
    | error e => simp [hg, orFault] at h
    | ok g =>
      rw [hg, orFault, Host.Outcome.next.injEq] at h
      refine ⟨.tile g, h.symm, fun u hp hb => ?_⟩
      rw [exec_decodeTile_eq_readGrid hi, ← readGrid_congr hp hi hb, hg, orFault]
  · have hi' : 512 ≤ i := by omega
    rw [exec_decodeTile_outOfRange s hi', Host.Outcome.next.injEq] at h
    exact ⟨.outOfRange i, h.symm, fun u _ _ => exec_decodeTile_outOfRange u hi'⟩

end

/-- Settles O30: both parts are `exec_decodeTile_next`, which the first uses again in the state after the decode. -/
theorem decodeTileIsPure : Obligations.DecodeTileIsPure := by
  refine ⟨fun s t i h => ?frame, fun s t s' t' i hp hb hs ht => ?bytes⟩
  case frame =>
    obtain ⟨x, rfl, hsame⟩ := exec_decodeTile_next h
    exact ⟨⟨rfl, rfl, rfl, rfl, rfl⟩, rfl, rfl, rfl, x, _, rfl, hsame (s.pushAnswer x) rfl fun _ _ => rfl, rfl⟩
  case bytes =>
    obtain ⟨x, rfl, hsame⟩ := exec_decodeTile_next hs
    rw [hsame t hp hb, Host.Outcome.next.injEq] at ht
    subst ht
    rfl

end Sys2Proof.Machine
end

section
/-! PROOFS. The frame-timing operations: status events (45_host_events.md R102) and ticks (R104). -/

namespace Sys2Proof.Machine

/-- R102: one write of STATUS, and no other element. -/
theorem exec_statusEvent (m c : Byte) (s : State) :
    exec (.statusEvent m c) s = .next (s.setStatus (statusAfterEvent s.status m c)) := rfl

/-- Settles O21: the next state is `exec_statusEvent`, its bits are `statusAfterEvent_getLsbD`. -/
theorem statusEventSetsAndClears : Obligations.StatusEventSetsAndClears := by
  refine ⟨fun _ _ => ?decodes, fun s m c => ⟨?next, fun n hn => ?bits⟩⟩
  case decodes => rfl
  case next => exact exec_statusEvent m c s
  case bits => exact statusAfterEvent_getLsbD s.status m c hn

/-- Settles O22: R53 gives code `0011` to TICK, whose meaning (R104) has no statement. -/
theorem tickChangesNothing : Obligations.TickChangesNothing := by
  refine ⟨fun _ _ => ?decodes, fun s => ?next⟩
  case decodes => rfl
  case next => rfl

end Sys2Proof.Machine
end

section
/-! PROOFS. The errors that end a run (60_exceptions.md R107 to R109): every fault is a memory access past `VRAM_SIZE`,
every refusal a scroll write under REFUSE or a reserved host code. -/

namespace Sys2Proof

/-! ### Reserved host codes in the decoder -/

theorem reservedHostCode_iff (c : BitVec 4) : reservedHostCode c = true ↔ c.toNat = 0 ∨ 5 ≤ c.toNat := by
  simp only [reservedHostCode, Bool.or_eq_true, beq_iff_eq, decide_eq_true_eq]

theorem decodeH_of_reserved {c : BitVec 4} (hc : reservedHostCode c = true) (o : HostOperands) :
    decodeH c o = .reservedHost c := by
  have hne {k : BitVec 4} (hk : reservedHostCode k = false) : c ≠ k := by
    rintro rfl
    simp only [hc, Bool.true_eq_false] at hk
  rw [decodeH, if_neg (hne (by decide)), if_neg (hne (by decide)), if_neg (hne (by decide)), if_neg (hne (by decide))]

theorem decodeT_agent (w : BitVec 12) : (decodeT w).agent = .busMaster := by
  rw [decodeT]
  split
  · exact writeAt_agent _ _
  · exact readAt_agent _

/-- Only a reserved host code decodes to `RESERVED_HOST` (R53): the other two formats are the bus master's. -/
theorem decode_eq_reservedHost {p : Params} {op : RawOp} {c : BitVec 4} (h : decode p op = .reservedHost c) :
    ∃ o, op = .host c o ∧ reservedHostCode c = true := by
  cases op with
  | bus write a d =>
    have hagent := decode_bus_agent p write a d
    rw [h] at hagent
    cases hagent
  | reg w =>
    have hagent : (decode p (.reg w)).agent = .busMaster := decodeT_agent w
    rw [h] at hagent
    cases hagent
  | host c' o =>
    have hwf := decode_wf p (.host c' o)
    have hmem : decode p (.host c' o) ∈ _ := decodeH_mem c' o
    rw [h] at hwf hmem
    simp only [List.mem_cons, reduceCtorEq, Instr.reservedHost.injEq, List.not_mem_nil, or_false, false_or] at hmem
    exact ⟨o, by rw [hmem], hwf⟩

end Sys2Proof

namespace Sys2Proof.Machine

/-! ### Faults -/

/-- A fault is an access outside the video memory: `VramOutOfRange(a)` for an address `a` from `VRAM_SIZE` up. -/
def Fault.PastVram (p : Params) (e : Fault) : Prop := ∃ a, e = .vramOutOfRange a ∧ p.vramSize ≤ a.toNat

section
variable {s : State} {e : Fault}

theorem memRead_error_pastVram {a : Addr} (h : memRead a s = .error e) : e.PastVram s.params := by
  by_cases ha : a.toNat < s.params.vramSize
  · cases (memRead_ok ha).symm.trans h
  · cases (memRead_error ha).symm.trans h
    exact ⟨a, rfl, Nat.le_of_not_lt ha⟩

theorem readRow_error_pastVram {i : Nat} {r : Fin 8} (h : readRow i r s = .error e) : e.PastVram s.params := by
  rw [readRow] at h
  split at h
  next h1 =>
    cases h
    exact memRead_error_pastVram h1
  next =>
    split at h
    next h2 =>
      cases h
      exact memRead_error_pastVram h2
    next => cases h

/-- Where every error of a computation and of what follows it is one of `P`, so is every error of the two in sequence. -/
theorem bind_error_cases {α β : Type} {P : Fault → Prop} {x : Except Fault α} {f : α → Except Fault β}
    (hx : ∀ {e}, x = .error e → P e) (hf : ∀ a e, f a = .error e → P e) : ∀ e, x >>= f = .error e → P e := by
  intro e h
  cases x with
  | error e' =>
    cases h
    exact hx rfl
  | ok a => exact hf a e h

theorem readGrid_error_pastVram {i : Nat} : ∀ e, readGrid i s = .error e → e.PastVram s.params := by
  rw [readGrid]
  iterate 8 refine bind_error_cases readRow_error_pastVram fun _ => ?_
  intro e h
  cases h

theorem orFault_fault {α : Type} {x : Except Fault α} {k : α → Result} (h : orFault x k = .fault e) :
    x = .error e ∨ ∃ a, x = .ok a ∧ k a = .fault e := by
  cases x with
  | error e' =>
    cases h
    exact .inl rfl
  | ok a => exact .inr ⟨a, rfl, h⟩

/-- Every fault of an operation is an access outside the video memory, whatever the parameters (R105, R108). -/
theorem exec_fault_pastVram {i : Instr} (h : exec i s = .fault e) : e.PastVram s.params := by
  cases i with
  | rdData =>
    obtain hread | ⟨b, -, h⟩ := orFault_fault h
    · exact memRead_error_pastVram hread
    · cases hm : s.params.dataReadMode <;> rw [hm] at h <;> cases h
  | wrData d =>
    by_cases hv : s.vAddr.toNat < s.params.vramSize
    · cases (exec_wrData hv d).symm.trans h
    · have hv' := Nat.le_of_not_lt hv
      cases (exec_wrData_outOfRange hv' d).symm.trans h
      exact ⟨s.vAddr, rfl, hv'⟩
  | decodeTile n =>
    by_cases hn : n ≤ 511
    · rw [exec_decodeTile_eq_readGrid hn] at h
      obtain hgrid | ⟨g, -, h⟩ := orFault_fault h
      · exact readGrid_error_pastVram e hgrid
      · cases h
    · cases (exec_decodeTile_outOfRange s (Nat.lt_of_not_le hn)).symm.trans h
  | wrScroll d =>
    cases hp : s.params.scrollPolicy with
    | noEffect => cases (exec_wrScroll_noEffect hp d).symm.trans h
    | refuse => cases (exec_wrScroll_refuse hp d).symm.trans h
  | _ => cases h

theorem step_params {t : State} (h : step s = .next t) : t.params = s.params := by
  rw [step] at h
  split at h
  next =>
    cases h
    rfl
  next op rest _ => exact exec_params (s := { s with inputs := rest }) h

theorem step_fault_pastVram (h : step s = .fault e) : e.PastVram s.params := by
  rw [step] at h
  split at h
  next => cases h
  next op rest _ => exact exec_fault_pastVram (s := { s with inputs := rest }) h

end

/-- A run that faults does so at an access outside the video memory of the parameters it starts with. -/
theorem run_fault_pastVram {n : Nat} {s : State} {e : Fault} (h : Host.Core.run Sys2Proof.core n s = .fault e) :
    e.PastVram s.params := by
  induction n generalizing s with
  | zero => cases h
  | succ n ih =>
    simp only [Host.Core.run] at h
    split at h
    next t hstep =>
      rw [← step_params hstep]
      exact ih h
    next e' hstep =>
      cases h
      exact step_fault_pastVram hstep
    next => cases h

/-- Settles O33: every fault of a run is `VramOutOfRange`. -/
theorem noRunReachesInvalidPixelValue : Obligations.NoRunReachesInvalidPixelValue := by
  refine ⟨fun p hp => ?guarded, fun n s p hrun => ?unreached⟩
  case guarded =>
    rw [mapPixel, guardPixel, dif_neg (Nat.not_lt.mpr hp)]
    rfl
  case unreached =>
    obtain ⟨a, hfault, -⟩ := run_fault_pastVram hrun
    cases hfault

/-- Settles O35: a fault needs a 16-bit address from `VRAM_SIZE` up, and the full size leaves none. -/
theorem noFaultWithFullVideoMemory : Obligations.NoFaultWithFullVideoMemory := by
  intro n s hsize e hrun
  obtain ⟨a, -, ha⟩ := run_fault_pastVram hrun
  have hlt := a.isLt
  omega

/-! ### Refusals -/

theorem orFault_refused {α : Type} {x : Except Fault α} {k : α → Result} {r : Refusal} (h : orFault x k = .refused r) :
    ∃ a, x = .ok a ∧ k a = .refused r := by
  cases x with
  | error e => cases h
  | ok a => exact ⟨a, rfl, h⟩

/-- The two ways an operation is refused, with what the refusal records (R109). -/
theorem exec_refused_cases {s : State} {i : Instr} {r : Refusal} (h : exec i s = .refused r) :
    (s.params.scrollPolicy = .refuse ∧ r = .scrollWrite ∧ ∃ d, i = .wrScroll d) ∨
    ∃ c, r = .reservedHostCode c ∧ i = .reservedHost c := by
  cases i with
  | wrScroll d =>
    cases hp : s.params.scrollPolicy with
    | noEffect => cases (exec_wrScroll_noEffect hp d).symm.trans h
    | refuse =>
      cases (exec_wrScroll_refuse hp d).symm.trans h
      exact .inl ⟨rfl, rfl, d, rfl⟩
  | reservedHost c =>
    cases h
    exact .inr ⟨c, rfl, rfl⟩
  | rdData =>
    obtain ⟨b, -, h⟩ := orFault_refused h
    cases hm : s.params.dataReadMode <;> rw [hm] at h <;> cases h
  | wrData d =>
    obtain ⟨t, -, h⟩ := orFault_refused h
    cases h
  | decodeTile n =>
    by_cases hn : n ≤ 511
    · rw [exec_decodeTile_eq_readGrid hn] at h
      obtain ⟨g, -, h⟩ := orFault_refused h
      cases h
    · cases (exec_decodeTile_outOfRange s (Nat.lt_of_not_le hn)).symm.trans h
  | _ => cases h

/-- Settles O36: `exec_refused_cases` gives the refused operations, `decode_eq_reservedHost` the raw forms of a reserved
code. -/
theorem reservedHostCodesAreRefused : Obligations.ReservedHostCodesAreRefused := by
  refine ⟨fun p c o s hc => ⟨?decodes, ?refused⟩, fun s d hp => exec_wrScroll_refuse hp d, fun s op r h => ?only⟩
  case decodes => exact decodeH_of_reserved ((reservedHostCode_iff c).mpr hc) o
  case refused => rfl
  case only =>
    obtain ⟨hp, -, hscroll⟩ | ⟨c, -, hop⟩ := exec_refused_cases h
    · exact .inl ⟨hp, hscroll⟩
    · obtain ⟨o, rfl, hc⟩ := decode_eq_reservedHost hop
      exact .inr ⟨c, o, rfl, (reservedHostCode_iff c).mp hc⟩

end Sys2Proof.Machine
end

section
/-! PROOFS. Reset and the hazards of the data port and the latch (70_reset_and_hazards.md R120, R123 to R127). -/

namespace Sys2Proof.Machine

/-- Settles O23: R53 gives code `0001` to RESET, whose next state is `resetBlock_eq`. -/
theorem resetSetsLatchAndStatus : Obligations.ResetSetsLatchAndStatus := by
  refine ⟨fun _ _ => ?decodes, fun s => ?next⟩
  case decodes => rfl
  case next => exact congrArg Host.Outcome.next (resetBlock_eq s)

/-! ### Completing runs, taken apart -/

/-- A completing run begins with an operation that completes. -/
theorem execAll_cons_eq_next {i : Instr} {is : List Instr} {s t : State} (h : execAll (i :: is) s = .next t) :
    ∃ u, exec i s = .next u ∧ execAll is u = .next t := by
  rw [execAll] at h
  split at h
  next u hi => exact ⟨u, hi, h⟩
  next => cases h
  next => cases h

/-- A completing run of two parts completes the first. -/
theorem execAll_append_eq_next {is js : List Instr} {s t : State} (h : execAll (is ++ js) s = .next t) :
    ∃ u, execAll is s = .next u ∧ execAll js u = .next t := by
  induction is generalizing s with
  | nil => exact ⟨s, rfl, h⟩
  | cons i is ih =>
    obtain ⟨v, hi, hrest⟩ := execAll_cons_eq_next h
    obtain ⟨u, his, hjs⟩ := ih hrest
    exact ⟨u, (execAll_cons_next hi).trans his, hjs⟩

/-- What every operation of a run keeps, the run keeps. -/
theorem execAll_keeps {P : State → Prop} {ops : List Instr} {s t : State}
    (hkeep : ∀ i ∈ ops, ∀ u v : State, exec i u = .next v → P u → P v) (h : execAll ops s = .next t) (hs : P s) :
    P t := by
  induction ops generalizing s with
  | nil =>
    cases h
    exact hs
  | cons i ops ih =>
    obtain ⟨u, hi, hrest⟩ := execAll_cons_eq_next h
    exact ih (fun j hj => hkeep j (List.mem_cons_of_mem i hj)) hrest (hkeep i List.mem_cons_self s u hi hs)

theorem execAll_params {ops : List Instr} {s t : State} (h : execAll ops s = .next t) : t.params = s.params :=
  execAll_keeps (P := (·.params = s.params)) (fun _ _ _ _ hi hu => (exec_params hi).trans hu) h rfl

/-! ### The phase along a run -/

/-- A Video Address write (R76). -/
def isAddressWrite : Instr → Bool
  | .wrAddr _ => true
  | _ => false

/-- Outside status reads and resets, the phase changes at Video Address writes only, and each toggles it (R87). -/
theorem exec_w {i : Instr} {s t : State} (hread : i ≠ .rdStatus) (hreset : i ≠ .reset) (h : exec i s = .next t) :
    t.w = if isAddressWrite i then s.w.toggle else s.w := by
  have hrow := latchTransitionTable s t i h
  cases i with
  | rdStatus => exact absurd rfl hread
  | reset => exact absurd rfl hreset
  | wrAddr b =>
    cases h
    exact latchWriteHalf_w b s
  | _ => exact hrow.1

/-- A run without status reads and resets toggles the phase once for each Video Address write. -/
theorem execAll_w {ops : List Instr} {s t : State} (hops : ∀ i ∈ ops, i ≠ .rdStatus ∧ i ≠ .reset)
    (h : execAll ops s = .next t) : t.w = Phase.toggle^[ops.countP isAddressWrite] s.w := by
  induction ops generalizing s with
  | nil =>
    cases h
    rfl
  | cons i ops ih =>
    obtain ⟨u, hi, hrest⟩ := execAll_cons_eq_next h
    obtain ⟨hread, hreset⟩ := hops i List.mem_cons_self
    rw [ih (fun j hj => hops j (List.mem_cons_of_mem i hj)) hrest, exec_w hread hreset hi, List.countP_cons]
    cases isAddressWrite i <;> rfl

theorem Phase.toggle_involutive : Function.Involutive Phase.toggle := by
  intro w
  cases w <;> rfl

theorem Phase.toggle_ne (w : Phase) : w.toggle ≠ w := by
  cases w <;> decide

/-- Toggling `n` times gives the phase back exactly when `n` is even. -/
theorem Phase.mod_two_of_toggle_iterate (w : Phase) (n : Nat) :
    n % 2 = if Phase.toggle^[n] w = w then 0 else 1 := by
  obtain hn | hn := Nat.even_or_odd n
  · rw [Phase.toggle_involutive.iterate_even hn, id_eq, if_pos rfl, Nat.even_iff.mp hn]
  · rw [Phase.toggle_involutive.iterate_odd hn, if_neg w.toggle_ne, Nat.odd_iff.mp hn]

/-- Settles O15: the run toggles the phase once for each Video Address write, and two toggles cancel. -/
theorem phaseIsParityOfAddressWrites : Obligations.PhaseIsParityOfAddressWrites := by
  intro ops s t hops h
  rw [execAll_w hops h]
  exact Phase.mod_two_of_toggle_iterate s.w (ops.countP isAddressWrite)

/-! ### VBLANK along a run -/

/-- Without a status event and a reset a clear VBLANK stays clear (R31). -/
theorem exec_keeps_vblankClear {i : Instr} {s t : State} (hreset : i ≠ .reset) (hevent : ∀ m c, i ≠ .statusEvent m c)
    (h : exec i s = .next t) (hs : vblankOf s.params s.status = false) : vblankOf t.params t.status = false := by
  by_contra hne
  have hchanged : vblankOf t.params t.status ≠ vblankOf s.params s.status := fun heq => hne (heq.trans hs)
  obtain ⟨-, hclear⟩ | ⟨m, c, hi⟩ | ⟨hi, -⟩ := vblank_changed_cases h hchanged
  · exact hne hclear
  · exact hevent m c hi
  · exact hreset hi

/-- A status read that finds VBLANK clear returns it clear, before the clear or after it. -/
theorem vblankOf_statusReadByte {p : Params} {status : Byte} (h : vblankOf p status = false) :
    vblankOf p (statusReadByte p status) = false := by
  rw [vblankOf, statusReadByte_getLsbD_vblankBit]
  cases p.statusReadValue with
  | preClear => exact h
  | postClear => rfl

/-- Settles O20: the first read clears VBLANK, the operations between keep it clear, the second read returns it. -/
theorem secondStatusReadReturnsVblankClear : Obligations.SecondStatusReadReturnsVblankClear := by
  intro ops s t hops h
  obtain ⟨v, hfirst, hlast⟩ := execAll_append_eq_next h
  obtain ⟨u, hread, hbetween⟩ := execAll_cons_eq_next hfirst
  have hu : vblankOf u.params u.status = false := by
    rw [exec_params hread, exec_status hread]
    exact clearVblank_getLsbD_vblankBit s.params s.status
  have hv : vblankOf v.params v.status = false :=
    execAll_keeps (P := fun x => vblankOf x.params x.status = false)
      (fun i hi _ _ => exec_keeps_vblankClear (hops i hi).1 (hops i hi).2) hbetween hu
  have hparams : v.params = s.params := execAll_params hfirst
  rw [execAll_singleton, exec_rdStatus] at hlast
  cases hlast
  refine ⟨_, _, rfl, ?_⟩
  rw [← hparams]
  exact vblankOf_statusReadByte hv

/-! ### The half-written address -/

@[simp] theorem latchWriteHalf_vram (b : Byte) (s : State) : (latchWriteHalf b s).vram = s.vram := by
  rw [latchWriteHalf_rest, State.setW_vram, State.setV_vram]

@[simp] theorem latchWriteHalf_answers (b : Byte) (s : State) : (latchWriteHalf b s).answers = s.answers := by
  rw [latchWriteHalf_rest, State.setW_answers, State.setV_answers]

/-- At the full size every address is in video memory (R34). -/
theorem toNat_lt_vramSize {s : State} (hsize : s.params.vramSize = 0x10000) (a : Addr) : a.toNat < s.params.vramSize :=
  hsize ▸ a.isLt

/-- A high-byte write keeps the low byte of `V`. -/
theorem latchWriteHalf_high_and_lowMask {s : State} (h : s.w = .expectHigh) (b : Byte) :
    (latchWriteHalf b s).vAddr &&& 0x00FF = s.vAddr &&& 0x00FF := by
  rw [latchWriteHalf_high h]
  simp only [State.vAddr, State.setW_v, State.setV_v, VideoAddress.toAddr_and_lowMask]

/-- Settles O16: the data port uses the `V` that `latchWriteHalf_high_vAddr` gives. -/
theorem halfWrittenAddressIsUsed : Obligations.HalfWrittenAddressIsUsed := by
  intro s b d hw hwf hsize
  have hlow : (latchWriteHalf b s).w = .expectLow := by rw [latchWriteHalf_w, hw, Phase.toggle]
  have hv := latchWriteHalf_high_vAddr hw b
  have hin : (latchWriteHalf b s).vAddr.toNat < (latchWriteHalf b s).params.vramSize :=
    toNat_lt_vramSize ((latchWriteHalf_params b s).symm ▸ hsize) _
  refine ⟨_, _, exec_wrAddr b s, hlow, hv, exec_wrData hin d, ?stored, hlow, fun hmode => ?read⟩
  case stored =>
    rw [← hv, latchWriteHalf_vram]
    exact Memory.read_write_eq hwf _ d
  case read =>
    rw [← latchWriteHalf_params b s] at hmode
    refine ⟨_, exec_rdData_directIncrement hmode hin, ?_⟩
    rw [← hv, ← latchWriteHalf_vram b s, ← latchWriteHalf_answers b s]
    rfl

/-! ### Encoded register accesses -/

section
variable (p : Params)

@[simp] theorem decode_encode_rdStatus : decode p (encode .rdStatus) = .rdStatus := decode_reg_wordT p false 2 0
@[simp] theorem decode_encode_rdData : decode p (encode .rdData) = .rdData := decode_reg_wordT p false 7 0
@[simp] theorem decode_encode_wrAddr (b : Byte) : decode p (encode (.wrAddr b)) = .wrAddr b :=
  decode_reg_wordT p true 6 b
@[simp] theorem decode_encode_wrData (d : Byte) : decode p (encode (.wrData d)) = .wrData d :=
  decode_reg_wordT p true 7 d

end

/-- Settles O17: the status read forces `ExpectHigh`, so `lo` is a high byte beside the low byte `V` had at first. -/
theorem statusReadCorruptsHalfBuiltAddress : Obligations.StatusReadCorruptsHalfBuiltAddress := by
  intro s hi lo hw
  simp only [runOps_eq_execAll, List.map_cons, List.map_nil, decode_encode_wrAddr, decode_encode_rdStatus]
  rw [execAll_cons_next (exec_wrAddr hi s), execAll_cons_next (exec_rdStatus _), execAll_singleton, exec_wrAddr]
  refine ⟨_, rfl, ?address, ?phase⟩
  case address =>
    rw [latchWriteHalf_high_vAddr (by rfl), ← latchWriteHalf_high_and_lowMask hw hi]
    rfl
  case phase =>
    rw [latchWriteHalf_w]
    rfl

/-! ### The stride of the data port -/

section
variable {s : State}

/-- The two data-port accesses advance `V` alike, by the `INC` that CTRL gives at the access (R66, R77). -/
theorem exec_dataPort_advances {i : Instr} (hi : i = .rdData ∨ ∃ d, i = .wrData d)
    (hsize : s.params.vramSize = 0x10000) (hmode : s.params.dataReadMode = .directIncrement) :
    ∃ t, exec i s = .next t ∧ t.vAddr = s.vAddr + s.inc := by
  have hin := toNat_lt_vramSize hsize s.vAddr
  obtain rfl | ⟨d, rfl⟩ := hi
  · exact ⟨_, exec_rdData_directIncrement hmode hin, latchAdvance_vAddr s⟩
  · exact ⟨_, exec_wrData hin d, latchAdvance_vAddr _⟩

/-- A `WR_CTRL` between two data-port accesses changes the stride of the second only. -/
theorem execAll_dataPort_wrCtrl_dataPort {i j : Instr} {c : Byte} (hi : i = .rdData ∨ ∃ d, i = .wrData d)
    (hj : j = .rdData ∨ ∃ d, j = .wrData d) (hsize : s.params.vramSize = 0x10000)
    (hmode : s.params.dataReadMode = .directIncrement) :
    ∃ t, execAll [i, .wrCtrl c, j] s = .next t ∧ t.vAddr = s.vAddr + s.inc + incSize s.params c := by
  obtain ⟨u, hu, huv⟩ := exec_dataPort_advances hi hsize hmode
  have hparams : u.params = s.params := exec_params hu
  obtain ⟨t, ht, htv⟩ := exec_dataPort_advances (s := u.setCtrl c) hj
    (hparams ▸ hsize : u.params.vramSize = 0x10000) (hparams ▸ hmode : u.params.dataReadMode = .directIncrement)
  refine ⟨t, ?_, ?_⟩
  · rw [execAll_cons_next hu, execAll_cons_next (exec_wrCtrl c u), execAll_singleton, ht]
  · calc t.vAddr = u.vAddr + incSize u.params c := htv
      _ = s.vAddr + s.inc + incSize s.params c := by rw [huv, hparams]

theorem vAddr_add_inc_ne (s : State) : s.vAddr + s.inc ≠ s.vAddr := by
  have hinc : s.inc ≠ 0 := by
    rw [State.inc, incSize]
    split <;> decide
  exact fun h => hinc (add_eq_left.mp h)

/-- A read straight after a write answers the byte one `INC` further, which the write left alone. -/
theorem execAll_wrData_rdData (d : Byte) (hsize : s.params.vramSize = 0x10000)
    (hmode : s.params.dataReadMode = .directIncrement) :
    ∃ t, execAll [.wrData d, .rdData] s = .next t ∧
      t.answers = .busByte (s.vramByte (s.vAddr + s.inc)) :: s.answers := by
  have hwrite := exec_wrData (toNat_lt_vramSize hsize s.vAddr) d
  have hread := exec_rdData_directIncrement (s := latchAdvance (s.setVram (Memory.write s.vram s.vAddr.toNat d)))
    hmode (toNat_lt_vramSize hsize _)
  refine ⟨_, (execAll_cons_next hwrite).trans ((execAll_singleton _ _).trans hread), ?_⟩
  have hne : s.vAddr.toNat ≠ (s.vAddr + s.inc).toNat := fun h => vAddr_add_inc_ne s (BitVec.eq_of_toNat_eq h).symm
  rw [latchAdvance_vAddr]
  exact congrArg (Answer.busByte · :: s.answers) (Memory.read_write_ne hne s.vram d)

end

/-- SETADDR_SYNC sets `V` from any phase (R64), and leaves video memory alone. -/
theorem execAll_addressSync (s : State) (a : Addr) :
    ∃ t, execAll [.rdStatus, .wrAddr (a.extractLsb' 8 8), .wrAddr (a.extractLsb' 0 8)] s = .next t ∧
      t.vAddr = a ∧ t.vram = s.vram :=
  ⟨_, (execAll_cons_next (exec_rdStatus s)).trans (execAll_wrAddr_wrAddr_high rfl _ _),
    VideoAddress.toAddr_ofAddr a, rfl⟩

/-- Reading a byte back: the address sequence is issued again between the write and the read. -/
theorem runOps_readBack {s : State} (a : Addr) (d : Byte) (hsize : s.params.vramSize = 0x10000)
    (hwf : Memory.wf s.vram) (hmode : s.params.dataReadMode = .directIncrement) :
    ∃ t rest, runOps (expandLine s.params (.setaddrSync a) ++ [encode (.wrData d)] ++
        expandLine s.params (.setaddrSync a) ++ [encode .rdData]) s = .next t ∧ t.answers = .busByte d :: rest := by
  simp only [runOps_eq_execAll, List.map_append, List.map_cons, List.map_nil, decode_expandLine_setaddrSync,
    decode_encode_wrData, decode_encode_rdData, List.append_assoc]
  obtain ⟨t₁, hsync₁, hv₁, hm₁⟩ := execAll_addressSync s a
  have hp₁ : t₁.params = s.params := execAll_params hsync₁
  have hwrite := exec_wrData (toNat_lt_vramSize (hp₁ ▸ hsize) t₁.vAddr) d
  obtain ⟨t₂, hsync₂, hv₂, hm₂⟩ :=
    execAll_addressSync (latchAdvance (t₁.setVram (Memory.write t₁.vram t₁.vAddr.toNat d))) a
  have hp₂ : t₂.params = s.params := (execAll_params hsync₂).trans hp₁
  have hread := exec_rdData_directIncrement (hp₂ ▸ hmode)
    (toNat_lt_vramSize (hp₂ ▸ hsize) t₂.vAddr)
  have hbyte : t₂.vramByte t₂.vAddr = d := by
    rw [State.vramByte, hm₂, hv₂, ← hv₁]
    exact Memory.read_write_eq (hm₁ ▸ hwf) _ d
  rw [execAll_append_next hsync₁, List.singleton_append, execAll_cons_next hwrite, execAll_append_next hsync₂,
    execAll_singleton, hread, hbyte]
  exact ⟨_, _, rfl, rfl⟩

/-- Settles O53: the stride, the read straight after the write, and the read-back are the three lemmas above. -/
theorem strideFollowsCtrlAtEachAccess : Obligations.StrideFollowsCtrlAtEachAccess := by
  intro s c d e a hsize hwf hmode
  have hport {i : Instr} {x : Byte} (hi : i ∈ [Instr.rdData, .wrData x]) : i = .rdData ∨ ∃ y, i = .wrData y := by
    obtain rfl | rfl := List.mem_pair.mp hi
    · exact .inl rfl
    · exact .inr ⟨x, rfl⟩
  exact ⟨fun i hi j hj => execAll_dataPort_wrCtrl_dataPort (hport hi) (hport hj) hsize hmode,
    execAll_wrData_rdData d hsize hmode, runOps_readBack a d hsize hwf hmode⟩

end Sys2Proof.Machine
end

section
/-! PROOFS. The encoder against the decoder (30_encoding.md R49 to R53, R63), the agent of a raw form (00_scope.md R1),
and the default register window (R2). -/

namespace Sys2Proof

/-! ### Decoding an encoding -/

/-- Formats T, B and H in turn: a register word by its direction and offset, an unmapped access and a reserved code by
what well-formedness says of them, the defined host codes by evaluation. -/
theorem decode_encode {p : Params} {i : Instr} (h : i.wf p = true) : decode p (encode i) = i := by
  cases i with
  | rdCtrl | rdR1 | rdStatus | rdR3 | rdR4 | rdScroll | rdAddr | rdData => exact decode_reg_wordT p false _ 0
  | wrCtrl d | wrR1 d | wrStatus d | wrR3 d | wrR4 d | wrScroll d | wrAddr d | wrData d =>
    exact decode_reg_wordT p true _ d
  | rdUnmapped a => exact decode_bus_unmapped (Option.isNone_iff_eq_none.mp h) false 0
  | wrUnmapped a d => exact decode_bus_unmapped (Option.isNone_iff_eq_none.mp h) true d
  | reservedHost c => exact decodeH_of_reserved h .zero
  | reset | statusEvent _ _ | tick | decodeTile _ => rfl

/-- Settles O38: `decode_encode`. -/
theorem decodeOfEncode : Obligations.DecodeOfEncode := fun _ _ h => decode_encode h

/-- Settles O43: only a reserved code needs its well-formedness, which keeps it off the frame-timing codes. -/
theorem rawFormBelongsToAgent : Obligations.RawFormBelongsToAgent := by
  intro p i h
  cases i with
  | reservedHost c => exact Laws.AgentCarried.reservedHost c p h
  | _ => rfl

/-! ### Fixed words and assembler lines -/

/-- Settles O44: eleven closed decodings, by evaluation. -/
theorem vectorWordsDecode : Obligations.VectorWordsDecode := by
  refine ⟨?_, ?_, ?_, ?_, ?_, ?_, ?_, ?_, ?_, ?_, ?_⟩ <;> rfl

/-- Settles O45: a register line is a format-T word, every other line is the raw operation its decoding names. -/
theorem assemblerLinesStandForOperations : Obligations.AssemblerLinesStandForOperations := by
  intro p r b m c a i
  refine ⟨?read, ?write, rfl, rfl, rfl, rfl, rfl, rfl⟩
  case read => exact congrArg ([·]) (decode_reg_wordT p false r 0)
  case write => exact congrArg ([·]) (decode_reg_wordT p true r b)

/-! ### The default window -/

/-- The default `reg_select` as one comparison and one subtraction (R2). -/
theorem regSelect_window {p : Params} (hmap : p.regMap = .window) (a : Addr) :
    p.regSelect a =
      if p.regBase.toNat ≤ a.toNat ∧ a.toNat < p.regBase.toNat + 8 then
        some (BitVec.ofNat 3 (a.toNat - p.regBase.toNat))
      else none := by
  simp only [Params.regSelect, hmap, RegRange.select, Params.windowRange, zero_add]

/-- Settles O41: inside the window the difference is below 8, so three bits hold it. -/
theorem defaultWindowSelectsEightOffsets : Obligations.DefaultWindowSelectsEightOffsets := by
  intro p a hmap
  rw [regSelect_window hmap]
  by_cases hin : p.regBase.toNat ≤ a.toNat ∧ a.toNat < p.regBase.toNat + 8
  · rw [if_pos hin]
    refine ⟨fun k => ?_, iff_of_false nofun (not_not_intro hin)⟩
    rw [Option.some_inj, ← BitVec.toNat_inj, BitVec.toNat_ofNat]
    omega
  · rw [if_neg hin]
    refine ⟨fun k => ⟨nofun, fun hk => absurd ?_ hin⟩, iff_of_true rfl hin⟩
    omega

end Sys2Proof
end

section
/-! PROOFS. What a completed operation leaves alone: the owners of each element (10_state.md R25 to R31), the model's
own fields, the data port, and the invariant that every step keeps (R22, 00_scope.md R2). -/

namespace Sys2Proof.Machine

/-! ### CTRL and VRAM after an operation -/

/-- The CTRL an operation leaves: one operation writes it (R31). -/
def ctrlAfter (ctrl : Byte) : Instr → Byte
  | .wrCtrl d => d
  | _ => ctrl

/-- The VRAM a completed operation leaves: one operation writes it, at `V` (R77). -/
def vramAfter (s : State) : Instr → Memory
  | .wrData d => Memory.write s.vram s.vAddr.toNat d
  | _ => s.vram

@[simp] theorem latchWriteHalf_ctrl (b : Byte) (s : State) : (latchWriteHalf b s).ctrl = s.ctrl := by
  rw [latchWriteHalf_rest, State.setW_ctrl, State.setV_ctrl]

@[simp] theorem latchWriteHalf_draws (b : Byte) (s : State) : (latchWriteHalf b s).draws = s.draws := by
  rw [latchWriteHalf_rest, State.setW_draws, State.setV_draws]

section
variable {i : Instr} {s t : State}

/-- A completing operation leaves the CTRL and the VRAM that `ctrlAfter` and `vramAfter` say. -/
theorem exec_ctrl_vram (h : exec i s = .next t) : t.ctrl = ctrlAfter s.ctrl i ∧ t.vram = vramAfter s i := by
  obtain ⟨rfl, hi⟩ | ⟨rfl, hi⟩ | ⟨rfl, rfl⟩ | ⟨rfl, -, -, rfl⟩ | ⟨d, rfl, rfl⟩ | ⟨b, rfl, rfl⟩ | ⟨d, rfl, -, rfl⟩ |
    ⟨rfl, rfl⟩ | ⟨m, c, rfl, rfl⟩ | ⟨n, g, rfl, -, -, rfl⟩ | ⟨n, rfl, -, rfl⟩ := exec_next_cases h
  · obtain ⟨_, rfl⟩ | ⟨_, rfl⟩ | ⟨_, rfl⟩ | ⟨_, rfl⟩ | ⟨_, rfl⟩ | ⟨_, rfl⟩ | ⟨_, _, rfl⟩ | rfl := hi <;>
      exact ⟨rfl, rfl⟩
  · obtain rfl | rfl | rfl | rfl | rfl | rfl | ⟨rfl, -⟩ := hi <;> exact ⟨rfl, rfl⟩
  pick_goal 4 -- `wrAddr`; every other update is one of a known field
  · exact ⟨latchWriteHalf_ctrl b s, latchWriteHalf_vram b s⟩
  all_goals exact ⟨rfl, rfl⟩

theorem exec_ctrl (h : exec i s = .next t) : t.ctrl = ctrlAfter s.ctrl i := (exec_ctrl_vram h).1

theorem exec_vram (h : exec i s = .next t) : t.vram = vramAfter s i := (exec_ctrl_vram h).2

/-- A data-port write completes only below `VRAM_SIZE` (R77, R108). -/
theorem vAddr_lt_of_exec_wrData {d : Byte} (h : exec (.wrData d) s = .next t) :
    s.vAddr.toNat < s.params.vramSize := by
  by_contra hv
  cases (exec_wrData_outOfRange (Nat.le_of_not_lt hv) d).symm.trans h

theorem ctrlAfter_ne {ctrl : Byte} (h : ctrlAfter ctrl i ≠ ctrl) : ∃ d, i = .wrCtrl d := by
  cases i with
  | wrCtrl d => exact ⟨d, rfl⟩
  | _ => exact absurd rfl h

theorem vramAfter_ne (h : vramAfter s i ≠ s.vram) : ∃ d, i = .wrData d := by
  cases i with
  | wrData d => exact ⟨d, rfl⟩
  | _ => exact absurd rfl h

/-- A byte of VRAM changes only at the `V` of a data-port write. -/
theorem read_vramAfter_ne {a : Nat} (h : Memory.read (vramAfter s i) a ≠ Memory.read s.vram a) :
    ∃ d, i = .wrData d ∧ a = s.vAddr.toNat := by
  obtain ⟨d, rfl⟩ := vramAfter_ne fun heq => h (by rw [heq])
  refine ⟨d, rfl, ?_⟩
  by_contra hne
  exact h (Memory.read_write_ne (Ne.symm hne) s.vram d)

/-! ### W and V -/

theorem exec_w_ne (h : exec i s = .next t) (hne : t.w ≠ s.w) : (∃ b, i = .wrAddr b) ∨ i = .rdStatus ∨ i = .reset := by
  have hrow := latchTransitionTable s t i h
  cases i with
  | wrAddr b => exact .inl ⟨b, rfl⟩
  | rdStatus => exact .inr (.inl rfl)
  | reset => exact .inr (.inr rfl)
  | _ => exact absurd hrow.1 hne

theorem exec_v_ne (h : exec i s = .next t) (hne : t.v ≠ s.v) :
    (∃ b, i = .wrAddr b) ∨ i = .rdData ∨ (∃ d, i = .wrData d) ∨ i = .reset := by
  have hrow := latchTransitionTable s t i h
  cases i with
  | wrAddr b => exact .inl ⟨b, rfl⟩
  | rdData => exact .inr (.inl rfl)
  | wrData d => exact .inr (.inr (.inl ⟨d, rfl⟩))
  | reset => exact .inr (.inr (.inr rfl))
  | _ => exact absurd hrow.2 hne

end

/-- Settles O50: the latch by its transition table, STATUS, CTRL and VRAM by the values an operation leaves in them. -/
theorem onlyOwnersWriteEachElement : Obligations.OnlyOwnersWriteEachElement := by
  intro s t i h
  refine ⟨exec_w_ne h, exec_v_ne h, ?status, ?ctrl, ?vram, ?byte⟩
  case status => exact fun hne => statusAfter_ne (exec_status h ▸ hne)
  case ctrl => exact fun hne => ctrlAfter_ne (exec_ctrl h ▸ hne)
  case vram => exact fun hne => vramAfter_ne (exec_vram h ▸ hne)
  case byte => exact fun a hne => read_vramAfter_ne (exec_vram h ▸ hne)

/-- Settles O52: both accesses keep W by the transition table, and a write changes only the byte at `V`. -/
theorem dataPortFrame : Obligations.DataPortFrame := by
  refine fun s t => ⟨fun h => ?read, fun d h => ?write⟩
  case read =>
    have hvram : t.vram = s.vram := exec_vram h
    exact ⟨(latchTransitionTable s t _ h).1, exec_status h, exec_ctrl h, fun a => by rw [hvram]⟩
  case write =>
    have hvram : t.vram = Memory.write s.vram s.vAddr.toNat d := exec_vram h
    exact ⟨(latchTransitionTable s t _ h).1, exec_status h, exec_ctrl h,
      fun a ha => hvram ▸ Memory.read_write_ne ha.symm s.vram d⟩

/-! ### Draws and answers -/

section
variable {i : Instr} {s t : State}

/-- What a completing operation answers: nothing, a byte to the bus master, or the result of a tile decode (R13). -/
theorem exec_answers_cases (h : exec i s = .next t) :
    t.answers = s.answers ∨ (∃ b, t.answers = .busByte b :: s.answers) ∨
    (∃ g, t.answers = .tile g :: s.answers) ∨
    ∃ n, i = .decodeTile n ∧ 511 < n ∧ t.answers = .outOfRange n :: s.answers := by
  obtain ⟨rfl, -⟩ | ⟨rfl, -⟩ | ⟨-, rfl⟩ | ⟨-, -, -, rfl⟩ | ⟨d, -, rfl⟩ | ⟨b, -, rfl⟩ | ⟨d, -, -, rfl⟩ |
    ⟨-, rfl⟩ | ⟨m, c, -, rfl⟩ | ⟨n, g, -, -, -, rfl⟩ | ⟨n, rfl, hn, rfl⟩ := exec_next_cases h
  · exact .inl rfl -- no statement
  · exact .inr (.inl ⟨_, rfl⟩) -- a draw
  · exact .inr (.inl ⟨_, rfl⟩) -- `rdStatus`
  · exact .inr (.inl ⟨_, rfl⟩) -- `rdData` under `DIRECT_INCREMENT`
  · exact .inl rfl -- `wrCtrl`
  · exact .inl (latchWriteHalf_answers b s) -- `wrAddr`
  · exact .inl rfl -- `wrData`
  · exact .inl rfl -- `reset`
  · exact .inl rfl -- `statusEvent`
  · exact .inr (.inr (.inl ⟨g, rfl⟩)) -- `decodeTile` in range
  · exact .inr (.inr (.inr ⟨n, rfl, hn, rfl⟩)) -- `decodeTile` past the pattern tables

/-- An operation takes draws and gives none back (R8). -/
theorem exec_draws_le (h : exec i s = .next t) : s.draws ≤ t.draws := by
  obtain ⟨rfl, -⟩ | ⟨rfl, -⟩ | ⟨-, rfl⟩ | ⟨-, -, -, rfl⟩ | ⟨d, -, rfl⟩ | ⟨b, -, rfl⟩ | ⟨d, -, -, rfl⟩ |
    ⟨-, rfl⟩ | ⟨m, c, -, rfl⟩ | ⟨n, g, -, -, -, rfl⟩ | ⟨n, -, -, rfl⟩ := exec_next_cases h
  · exact le_rfl -- no statement
  · exact Nat.le_succ s.draws -- a draw
  · exact le_rfl -- `rdStatus`
  · exact le_rfl -- `rdData` under `DIRECT_INCREMENT`
  · exact le_rfl -- `wrCtrl`
  · exact (latchWriteHalf_draws b s).ge -- `wrAddr`
  · exact le_rfl -- `wrData`
  · exact Nat.le_add_right s.draws 2 -- `reset`
  all_goals exact le_rfl -- `statusEvent`, `decodeTile`

end

/-- Settles O51: parameters, pending operations and draws by their own lemmas, the answers by `exec_answers_cases`. -/
theorem modelFieldsFrame : Obligations.ModelFieldsFrame := by
  refine fun s t i h => ⟨exec_params h, exec_inputs h, exec_draws_le h, ?answers⟩
  case answers =>
    obtain hnone | ⟨b, hb⟩ | ⟨g, hg⟩ | ⟨n, -, -, hn⟩ := exec_answers_cases h
    · exact .inl hnone
    · exact .inr ⟨_, hb⟩
    · exact .inr ⟨_, hg⟩
    · exact .inr ⟨_, hn⟩

/-! ### The invariant -/

section
variable {s t : State}

/-- The only operation that writes VRAM stores at an address below `VRAM_SIZE`, in canonical form again. -/
theorem exec_keeps_inv {i : Instr} (h : exec i s = .next t) (hs : State.Inv s) : State.Inv t := by
  obtain ⟨hparams, hcanonical, hinside⟩ := hs
  rw [State.Inv, exec_params h, exec_vram h]
  cases i with
  | wrData d =>
    refine ⟨hparams, Memory.wf_write hcanonical _ d, fun c hc => ?_⟩
    obtain hc | ⟨rfl, -⟩ := Memory.mem_write hc
    · exact hinside c hc
    · exact vAddr_lt_of_exec_wrData h
  | _ => exact ⟨hparams, hcanonical, hinside⟩

theorem step_keeps_inv (h : step s = .next t) (hs : State.Inv s) : State.Inv t := by
  rw [step] at h
  split at h
  next =>
    cases h
    exact hs
  next op rest _ => exact exec_keeps_inv (s := { s with inputs := rest }) h hs

end

/-- Settles O54: `step_keeps_inv`. -/
theorem stepKeepsInvariant : Obligations.StepKeepsInvariant := fun _ _ hs h => step_keeps_inv h hs

/-- Settles O55: the default parameters are in range, and nothing of VRAM is listed. -/
theorem resetMeetsInvariant : Obligations.ResetMeetsInvariant := ⟨rfl, reset_vram_wf, nofun⟩

end Sys2Proof.Machine
end

section
/-! PROOFS. Steps and runs over encoded operations (00_scope.md R1, 20_memory.md R44), and the model's reset state
(10_state.md R28). -/

namespace Sys2Proof.Machine

/-- Settles O25: `reset_eq_powerOn`; the values of the fields are written in `State.reset`. -/
theorem resetStateIsPowerOn : Obligations.ResetStateIsPowerOn :=
  ⟨reset_eq_powerOn, rfl, rfl, Memory.read_nil, rfl⟩

theorem step_of_inputs_cons {s : State} {op : RawOp} {rest : List RawOp} (h : s.inputs = op :: rest) :
    step s = exec (decode s.params op) (s.withInputs rest) := by
  rw [step, h]
  rfl

theorem step_of_inputs_nil {s : State} (h : s.inputs = []) : step s = .next s := by
  rw [step, h]

/-- An operation placed in front of the pending ones is the one performed next, on the state it was placed in. -/
theorem step_withInputs_cons (s : State) (op : RawOp) :
    step (s.withInputs (op :: s.inputs)) = exec (decode s.params op) s :=
  step_of_inputs_cons rfl

/-- Settles O47: the encoding of a well-formed operation, placed in front, decodes to that operation. -/
theorem stepRunsFirstPendingOperation : Obligations.StepRunsFirstPendingOperation := by
  refine ⟨fun s op rest => step_of_inputs_cons, fun s i hwf => ?placed, fun s => step_of_inputs_nil⟩
  case placed => exact (step_withInputs_cons s (encode i)).trans (by rw [decode_encode hwf])

/-- Settles O48: a word that decodes is placed as the raw operation it is read as. -/
theorem fetchedTableWordRuns : Obligations.FetchedTableWordRuns := by
  intro s nbits w i hparams hword
  rw [decodeTableWord] at hword
  rw [State.withFetchWord]
  cases hraw : rawOfTable nbits w with
  | error e =>
    rw [hraw] at hword
    cases hword
  | ok op =>
    rw [hraw, Option.some.injEq, ← hparams] at hword
    exact (step_withInputs_cons s op).trans (by rw [hword])

/-- Settles O49: the machine decodes each encoding back to its operation. -/
theorem runIsSequenceOfMeanings : Obligations.RunIsSequenceOfMeanings := by
  intro ops s hwf
  have hdecoded : (ops.map encode).map (decode s.params) = ops := by
    rw [List.map_map]
    exact (List.map_congr_left (g := id) fun i hi => decode_encode (hwf i hi)).trans (List.map_id ops)
  rw [runOps_eq_execAll, hdecoded]

end Sys2Proof.Machine
end

section
/-! PROOFS. Address sequences and data-port sequences (42_latch_state_machine.md R89), undisturbed by the frame-timing
source (45_host_events.md R102, R104), and the boot order (70_reset_and_hazards.md R122). -/

namespace Sys2Proof.Machine

/-! ### The two-write sequence as runs of the machine -/

/-- Settles O13: the two writes from `ExpectHigh` give both halves, and a status read makes that phase. -/
theorem addressSequenceGivesAddress : Obligations.AddressSequenceGivesAddress := by
  intro s hi lo
  have hv : VideoAddress.toAddr ⟨hi, lo⟩ = (hi.setWidth 16 <<< 8) ||| lo.setWidth 16 := VideoAddress.toAddr_eq_or _
  simp only [runOps_eq_execAll, List.map_cons, List.map_nil, decode_encode_wrAddr, decode_encode_rdStatus]
  refine ⟨fun hw => ?plain, ?interrupted, ?synced⟩
  case plain => exact ⟨_, execAll_wrAddr_wrAddr_high hw hi lo, hv, rfl⟩
  case interrupted => exact ⟨_, (execAll_cons_next (exec_wrAddr hi s)).trans (execAll_singleton _ _), rfl⟩
  case synced =>
    obtain ⟨t, hrun, htv, htw, -⟩ := execAll_rdStatus_wrAddr_wrAddr s hi lo
    exact ⟨t, hrun, by rw [State.vAddr, htv, hv], htw⟩

/-- Settles O57: `execAll_wrAddr_wrAddr_low` puts the first byte, which is the high one, in the low half. -/
theorem setaddrFromExpectLowSwapsHalves : Obligations.SetaddrFromExpectLowSwapsHalves := by
  intro s a hw
  rw [runOps_eq_execAll, decode_expandLine_setaddr]
  exact ⟨_, execAll_wrAddr_wrAddr_low hw _ _, rfl, rfl⟩

/-! ### Frame-timing operations between the writes -/

/-- The frame-timing source writes STATUS and nothing else (R102, R104). -/
theorem exec_frameTiming {i : Instr} (hi : i.agent = .frameTiming) (s : State) :
    ∃ x, exec i s = .next (s.setStatus x) := by
  cases i with
  | statusEvent m c => exact ⟨_, exec_statusEvent m c s⟩
  | tick => exact ⟨s.status, rfl⟩
  | _ => cases hi

theorem execAll_frameTiming {evs : List Instr} (hevs : ∀ i ∈ evs, i.agent = .frameTiming) (s : State) :
    ∃ x, execAll evs s = .next (s.setStatus x) := by
  induction evs generalizing s with
  | nil => exact ⟨s.status, rfl⟩
  | cons i evs ih =>
    obtain ⟨y, hy⟩ := exec_frameTiming (hevs i List.mem_cons_self) s
    obtain ⟨x, hx⟩ := ih (fun j hj => hevs j (List.mem_cons_of_mem i hj)) (s.setStatus y)
    exact ⟨x, (execAll_cons_next hy).trans hx⟩

/-- Settles O18: between the writes only STATUS changes, so the second write finds the latch as the first left it. -/
theorem frameEventsDoNotDisturbAddressSequence : Obligations.FrameEventsDoNotDisturbAddressSequence := by
  intro evs s hi lo hw hevs
  obtain ⟨x, hx⟩ := execAll_frameTiming hevs (latchWriteHalf hi s)
  have hrun : execAll (.wrAddr hi :: evs ++ [.wrAddr lo]) s =
      .next (latchWriteHalf lo ((latchWriteHalf hi s).setStatus x)) := by
    rw [execAll_append_next ((execAll_cons_next (exec_wrAddr hi s)).trans hx), execAll_singleton, exec_wrAddr]
  refine ⟨_, hrun, ?_⟩
  rw [latchWriteHalf_high hw, latchWriteHalf_low (by rfl)]
  exact ⟨VideoAddress.toAddr_eq_or ⟨hi, lo⟩, rfl, rfl, rfl⟩

/-! ### Data-port sequences -/

theorem inc_toNat (s : State) : s.inc.toNat = if s.ctrl.getLsbD s.params.ctrlIncBit then 32 else 1 := by
  rw [State.inc, incSize]
  split <;> rfl

/-- A completed data-port access leaves W, CTRL and STATUS alone, whichever of the two it is. -/
theorem exec_dataPort_frame {i : Instr} {s t : State} (hi : i = .rdData ∨ ∃ d, i = .wrData d)
    (h : exec i s = .next t) : t.w = s.w ∧ t.ctrl = s.ctrl ∧ t.status = s.status := by
  obtain rfl | ⟨d, rfl⟩ := hi
  · obtain ⟨hw, hstatus, hctrl, -⟩ := (dataPortFrame s t).1 h
    exact ⟨hw, hctrl, hstatus⟩
  · obtain ⟨hw, hstatus, hctrl, -⟩ := (dataPortFrame s t).2 d h
    exact ⟨hw, hctrl, hstatus⟩

/-- Settles O14: one access advances `V` by `INC` and keeps the CTRL that gives it, so the accesses after it advance by
the same `INC`. -/
theorem dataPortAccessesAdvanceByMultiples : Obligations.DataPortAccessesAdvanceByMultiples := by
  intro ops s hsize hmode hops
  rw [← inc_toNat s]
  induction ops generalizing s with
  | nil =>
    have hv := s.vAddr.isLt
    exact ⟨s, rfl, by rw [List.length_nil]; omega, rfl, rfl, rfl⟩
  | cons i ops ih =>
    have hi := hops i List.mem_cons_self
    obtain ⟨u, hu, huv⟩ := exec_dataPort_advances hi hsize hmode
    obtain ⟨huw, huc, hus⟩ := exec_dataPort_frame hi hu
    have hup : u.params = s.params := exec_params hu
    have hinc : u.inc = s.inc := by rw [State.inc, State.inc, hup, huc]
    obtain ⟨t, ht, htv, htw, htc, hts⟩ :=
      ih u (hup ▸ hsize) (hup ▸ hmode) fun j hj => hops j (List.mem_cons_of_mem i hj)
    refine ⟨t, (execAll_cons_next hu).trans ht, ?_, htw.trans huw, htc.trans huc, hts.trans hus⟩
    rw [htv, huv, hinc, BitVec.toNat_add, Nat.mod_add_mod, List.length_cons, Nat.succ_mul, Nat.add_assoc,
      Nat.add_comm s.inc.toNat]

/-! ### The boot order -/

/-- The address sequence after a status read, with the elements it leaves alone. -/
theorem execAll_rdStatus_wrAddr_wrAddr_frame (s : State) (b c : Byte) :
    ∃ t, execAll [.rdStatus, .wrAddr b, .wrAddr c] s = .next t ∧ t.v = ⟨b, c⟩ ∧ t.ctrl = s.ctrl ∧
      t.vram = s.vram ∧ t.params = s.params :=
  ⟨_, (execAll_cons_next (exec_rdStatus s)).trans (execAll_wrAddr_wrAddr_high rfl b c), rfl, rfl, rfl, rfl⟩

/-- Both orders of CTRL and the address sequence reach the same `V` and CTRL, with video memory as it was. -/
theorem execAll_boot_setup (s : State) (c hi lo : Byte) :
    ∀ ops ∈ [[Instr.wrCtrl c, .rdStatus, .wrAddr hi, .wrAddr lo], [.rdStatus, .wrAddr hi, .wrAddr lo, .wrCtrl c]],
    ∃ t, execAll ops s = .next t ∧ t.v = ⟨hi, lo⟩ ∧ t.ctrl = c ∧ t.vram = s.vram ∧ t.params = s.params := by
  intro ops hops
  obtain rfl | rfl := List.mem_pair.mp hops
  · obtain ⟨t, ht, hv, hc, hm, hp⟩ := execAll_rdStatus_wrAddr_wrAddr_frame (s.setCtrl c) hi lo
    exact ⟨t, (execAll_cons_next (exec_wrCtrl c s)).trans ht, hv, hc, hm, hp⟩
  · obtain ⟨t, ht, hv, -, hm, hp⟩ := execAll_rdStatus_wrAddr_wrAddr_frame s hi lo
    exact ⟨t.setCtrl c, (execAll_append_next (js := [.wrCtrl c]) ht).trans (execAll_singleton _ _), hv, rfl, hm, hp⟩

/-- Settles O26: after either set-up the data-port write stores at the address written and advances by the `INC` of the
CTRL written. -/
theorem bootOrderReachesAddress : Obligations.BootOrderReachesAddress := by
  intro p m n c hi lo d hsize hwf ops hops
  obtain ⟨setup, hsetup, rfl⟩ : ∃ setup ∈ [[Instr.wrCtrl c, .rdStatus, .wrAddr hi, .wrAddr lo],
      [.rdStatus, .wrAddr hi, .wrAddr lo, .wrCtrl c]], ops = setup ++ [.wrData d] := by
    obtain rfl | rfl := List.mem_pair.mp hops
    · exact ⟨_, List.mem_pair.mpr (.inl rfl), rfl⟩
    · exact ⟨_, List.mem_pair.mpr (.inr rfl), rfl⟩
  obtain ⟨u, hu, huv, huc, hum, hup⟩ := execAll_boot_setup (powerOn p m n []) c hi lo setup hsetup
  have hup : u.params = p := hup
  have huv : u.vAddr = (hi.setWidth 16 <<< 8) ||| lo.setWidth 16 := by
    rw [State.vAddr, huv, VideoAddress.toAddr_eq_or]
  have hwrite := (wrDataStoresAtVThenAdvances.2 u d (hum ▸ hwf)).1 (toNat_lt_vramSize (hup ▸ hsize) u.vAddr)
  obtain ⟨t, ht, htv, hstored, -⟩ := hwrite
  rw [huv, huc, hup] at htv
  rw [huv] at hstored
  exact ⟨t, (execAll_append_next hu).trans ((execAll_singleton _ _).trans ht), hstored, htv⟩

end Sys2Proof.Machine
end

section
/-! PROOFS. Completion and errors (60_exceptions.md R105 to R109): which operations complete at total parameters, and
the complete list of errors. -/

namespace Sys2Proof.Machine

/-! ### Completion -/

/-- The full video memory is in the range of R2. -/
theorem Params.wf_of_total {p : Params} (hp : Params.total p) : p.wf = true := by
  simp [Params.wf, hp.1]

/-- At parameters in range a tile decode completes for every index (R106). -/
theorem exec_decodeTile_completes {s : State} (hs : s.params.wf = true) (n : Nat) :
    ∃ x, exec (.decodeTile n) s = .next (s.pushAnswer x) := by
  obtain hn | hn := Nat.lt_or_ge n 512
  · exact ⟨_, exec_decodeTile_inRange hs (Nat.le_of_lt_succ hn)⟩
  · exact ⟨_, exec_decodeTile_outOfRange s hn⟩

/-- At total parameters only a reserved host code does not complete. -/
theorem exec_completes {s : State} (hp : Params.total s.params) {i : Instr} (hi : ∀ c, i ≠ .reservedHost c) :
    ∃ t, exec i s = .next t := by
  cases hagent : i.agent with
  | busMaster => exact exec_busMaster_completes hp hagent
  | frameTiming =>
    obtain ⟨x, hx⟩ := exec_frameTiming hagent s
    exact ⟨_, hx⟩
  | host =>
    cases i with
    | reset => exact ⟨_, rfl⟩
    | decodeTile n =>
      obtain ⟨x, hx⟩ := exec_decodeTile_completes (Params.wf_of_total hp) n
      exact ⟨_, hx⟩
    | reservedHost c => exact absurd rfl (hi c)
    | _ => cases hagent

theorem execAll_completes {ops : List Instr} {s : State} (hp : Params.total s.params)
    (hops : ∀ i ∈ ops, ∀ c, i ≠ .reservedHost c) : ∃ t, execAll ops s = .next t := by
  induction ops generalizing s with
  | nil => exact ⟨s, rfl⟩
  | cons i ops ih =>
    obtain ⟨u, hu⟩ := exec_completes hp (hops i List.mem_cons_self)
    obtain ⟨t, ht⟩ := ih ((exec_params hu).symm ▸ hp) fun j hj => hops j (List.mem_cons_of_mem i hj)
    exact ⟨t, (execAll_cons_next hu).trans ht⟩

theorem execAll_inputs {ops : List Instr} {s t : State} (h : execAll ops s = .next t) : t.inputs = s.inputs :=
  execAll_keeps (P := (·.inputs = s.inputs)) (fun _ _ _ _ hi hu => (exec_inputs hi).trans hu) h rfl

/-- Settles O37: only a reserved host code decodes to the operation that `exec_completes` leaves out. -/
theorem everyOperationSequenceCompletes : Obligations.EveryOperationSequenceCompletes := by
  intro ops s hp hops
  have hdefined : ∀ i ∈ ops.map (decode s.params), ∀ c, i ≠ .reservedHost c := by
    intro i hi c hc
    obtain ⟨op, hmem, hop⟩ := List.mem_map.mp hi
    obtain ⟨o, rfl, hreserved⟩ := decode_eq_reservedHost (hop.trans hc)
    exact Bool.false_ne_true ((hops c o hmem).symm.trans hreserved)
  obtain ⟨t, ht⟩ := execAll_completes hp hdefined
  exact ⟨t, (runOps_eq_execAll ops s).trans ht, execAll_inputs ht, execAll_params ht⟩

/-- Settles O56: past `VRAM_SIZE` both accesses have their fault equation, and the full size has no address there. -/
theorem dataPortAccessPastVramSizeFaults : Obligations.DataPortAccessPastVramSizeFaults := by
  refine fun s d => ⟨fun hv => ⟨exec_rdData_outOfRange hv, exec_wrData_outOfRange hv d⟩, fun hsize => ?_⟩
  have hv := toNat_lt_vramSize hsize s.vAddr
  cases hmode : s.params.dataReadMode with
  | directIncrement => exact ⟨_, _, exec_rdData_directIncrement hmode hv, exec_wrData hv d⟩
  | noEffect => exact ⟨_, _, (exec_rdData_noEffect hmode hv).trans (returnDraw_eq s), exec_wrData hv d⟩

/-! ### The list of errors -/

section
variable {s : State} {i : Instr}

/-- `OutOfRange(n)` is the answer of exactly the decode of a tile `n` past the pattern tables (R106). -/
theorem exec_answers_outOfRange_iff (n : Nat) :
    (∃ t, exec i s = .next t ∧ t.answers = .outOfRange n :: s.answers) ↔ i = .decodeTile n ∧ 16 * n + 16 > 0x2000 := by
  constructor
  · rintro ⟨t, h, ht⟩
    obtain hnone | ⟨b, hb⟩ | ⟨g, hg⟩ | ⟨m, rfl, hm, hout⟩ := exec_answers_cases h
    · exact absurd (ht.symm.trans hnone) (List.cons_ne_self _ _)
    · cases ht.symm.trans hb
    · cases ht.symm.trans hg
    · cases ht.symm.trans hout
      exact ⟨rfl, by omega⟩
  · rintro ⟨rfl, hn⟩
    exact ⟨_, exec_decodeTile_outOfRange s (by omega), rfl⟩

/-- At parameters in range a fault is a data-port access past `VRAM_SIZE`, which it records (R108). -/
theorem exec_fault_cases (hs : s.params.wf = true) {e : Fault} (h : exec i s = .fault e) :
    e = .vramOutOfRange s.vAddr ∧ s.params.vramSize ≤ s.vAddr.toNat ∧ (i = .rdData ∨ ∃ d, i = .wrData d) := by
  cases i with
  | rdData =>
    obtain hv | hv := Nat.lt_or_ge s.vAddr.toNat s.params.vramSize
    · cases hmode : s.params.dataReadMode with
      | directIncrement => cases (exec_rdData_directIncrement hmode hv).symm.trans h
      | noEffect => cases (exec_rdData_noEffect hmode hv).symm.trans h
    · cases (exec_rdData_outOfRange hv).symm.trans h
      exact ⟨rfl, hv, .inl rfl⟩
  | wrData d =>
    obtain hv | hv := Nat.lt_or_ge s.vAddr.toNat s.params.vramSize
    · cases (exec_wrData hv d).symm.trans h
    · cases (exec_wrData_outOfRange hv d).symm.trans h
      exact ⟨rfl, hv, .inr ⟨d, rfl⟩⟩
  | decodeTile n =>
    obtain ⟨x, hx⟩ := exec_decodeTile_completes hs n
    cases hx.symm.trans h
  | wrScroll d =>
    cases hp : s.params.scrollPolicy with
    | noEffect => cases (exec_wrScroll_noEffect hp d).symm.trans h
    | refuse => cases (exec_wrScroll_refuse hp d).symm.trans h
  | _ => cases h

theorem exec_fault_iff (hs : s.params.wf = true) :
    (∃ e, exec i s = .fault e) ↔ s.params.vramSize ≤ s.vAddr.toNat ∧ (i = .rdData ∨ ∃ d, i = .wrData d) := by
  constructor
  · rintro ⟨e, h⟩
    exact (exec_fault_cases hs h).2
  · rintro ⟨hv, rfl | ⟨d, rfl⟩⟩
    · exact ⟨_, exec_rdData_outOfRange hv⟩
    · exact ⟨_, exec_wrData_outOfRange hv d⟩

theorem exec_refused_iff :
    (∃ r, exec i s = .refused r) ↔
      (s.params.scrollPolicy = .refuse ∧ ∃ d, i = .wrScroll d) ∨ ∃ c, i = .reservedHost c := by
  constructor
  · rintro ⟨r, h⟩
    obtain ⟨hp, -, hscroll⟩ | ⟨c, -, hc⟩ := exec_refused_cases h
    · exact .inl ⟨hp, hscroll⟩
    · exact .inr ⟨c, hc⟩
  · rintro (⟨hp, d, rfl⟩ | ⟨c, rfl⟩)
    · exact ⟨_, exec_wrScroll_refuse hp d⟩
    · exact ⟨_, rfl⟩

end

/-! ### The guard of the palette mapping -/

theorem guardPixel_ok (k : Fin 4) : guardPixel k.val = .ok k := dif_pos k.isLt

theorem guardPixel_error {p : Nat} (hp : 4 ≤ p) : guardPixel p = .error (.invalidPixelValue p) :=
  dif_neg (Nat.not_lt.mpr hp)

theorem mapPixel_ok (k : Fin 4) : mapPixel k.val = .ok (Config.debugPalette k) := by
  rw [mapPixel, guardPixel_ok]
  rfl

theorem mapPixel_error {p : Nat} (hp : 4 ≤ p) : mapPixel p = .error (.invalidPixelValue p) := by
  rw [mapPixel, guardPixel_error hp]
  rfl

/-- Below 4 the mapping has a colour, so that an error means a value from 4 up, and records it (R107). -/
theorem mapPixel_eq_error {p : Nat} {e : Fault} (h : mapPixel p = .error e) : 4 ≤ p ∧ e = .invalidPixelValue p := by
  obtain hp | hp := Nat.lt_or_ge p 4
  · cases (mapPixel_ok ⟨p, hp⟩).symm.trans h
  · cases (mapPixel_error hp).symm.trans h
    exact ⟨hp, rfl⟩

/-- Settles O34: a row of the table is one of the lemmas above, with the code of its error. -/
theorem completeListOfErrors : Obligations.CompleteListOfErrors := by
  intro s i hs
  refine ⟨exec_answers_outOfRange_iff, exec_fault_iff hs, fun e h => ?fault, exec_refused_iff, fun r h => ?refusal,
    fun n => rfl, fun p => ⟨⟨?guarded, fun hp => ⟨_, mapPixel_error hp⟩⟩, fun e h => ?pixel⟩⟩
  case fault =>
    obtain ⟨rfl, -⟩ := exec_fault_cases hs h
    exact ⟨rfl, rfl⟩
  case refusal =>
    obtain ⟨-, hr, hscroll⟩ | hreserved := exec_refused_cases h
    · exact ⟨rfl, .inl ⟨hr, hscroll⟩⟩
    · exact ⟨rfl, .inr hreserved⟩
  case guarded =>
    rintro ⟨e, h⟩
    exact (mapPixel_eq_error h).1
  case pixel =>
    obtain ⟨-, rfl⟩ := mapPixel_eq_error h
    exact ⟨rfl, rfl⟩

end Sys2Proof.Machine
end

section
/-! PROOFS. The pattern tables as the data port writes them (20_memory.md R36, 70_reset_and_hazards.md R129), and the
pixels of a decoded tile handed to the adapter (44_renderer_adapter.md R99, R100). -/

namespace Sys2Proof.Machine

/-- A pixel of a grid passes the guard by its type (R96). -/
theorem handPixel_pixel (x y : Nat) (q : Pixel) :
    ∃ k : Fin 4, k.val = q.toNat ∧ handPixel x y q.toNat = .ok (.drawPixel x y k (Config.debugPalette k)) :=
  ⟨q.toFin, rfl, congrArg (Except.map _) (guardPixel_ok q.toFin)⟩

/-- Settles O32: the mapping by its two equations, and every pixel by `handPixel_pixel`. -/
theorem paletteMappingIsGuarded : Obligations.PaletteMappingIsGuarded :=
  ⟨mapPixel_ok, fun _ => mapPixel_error, fun _ _ _ _ _ _ _ _ x y => handPixel_pixel x y _⟩

/-- The bytes of the tile that holds an address, after a write there. -/
theorem read_write_tile {m : Memory} (hm : Memory.wf m) (a : Nat) (d : Byte) (k : Fin 16) :
    Memory.read (Memory.write m a d) (16 * (a / 16) + k) =
      if k.val = a % 16 then d else Memory.read m (16 * (a / 16) + k) := by
  have haddr : a = 16 * (a / 16) + k ↔ k.val = a % 16 := by omega
  rw [Memory.read_write hm, if_congr haddr rfl rfl]

/-- Settles O31: `read_write_tile` gives the written tile's bytes; a write from 0x2000 up leaves the bytes of every
tile in range. -/
theorem dataPortWritesReachDecoder : Obligations.DataPortWritesReachDecoder := by
  intro s t d ⟨hparams, hcanonical, _⟩ h
  have htp : t.params = s.params := exec_params h
  have htm : t.vram = Memory.write s.vram s.vAddr.toNat d := exec_vram h
  refine ⟨fun hv => ?inside, fun hv i x hx => ?outside⟩
  case inside =>
    have hbytes (k : Fin 16) := read_write_tile hcanonical s.vAddr.toNat d k
    rw [← htm] at hbytes
    rw [exec_decodeTile_inRange (htp ▸ hparams) (by omega)]
    simp only [hbytes]
    rfl
  case outside =>
    obtain hi | hi := Nat.lt_or_ge i 512
    · obtain ⟨y, hy, hsame⟩ := exec_decodeTile_next hx
      cases congrArg State.answers hy
      refine hsame t htp.symm fun k hk => ?_
      rw [htm, Memory.read_write_ne (by omega)]
    · cases (exec_decodeTile_outOfRange s hi).symm.trans hx
      exact exec_decodeTile_outOfRange t hi

end Sys2Proof.Machine
end

section
/-! PROOFS. What the bus master can read (10_state.md R25, 40_register_reads.md R67), and which window accesses are
idempotent (20_memory.md R42). -/

namespace Sys2Proof.Machine

/-! ### What a bus operation answers -/

/-- The answers of a completed bus operation, from the parameters, STATUS, the draws taken and the byte at `V`. -/
def busAnswers (p : Params) (status : Byte) (draws : Nat) (byteAtV : Byte) : Instr → List Answer
  | .rdCtrl | .rdR1 | .rdR3 | .rdR4 | .rdScroll | .rdAddr => [.busByte (Config.freeByte draws)]
  | .rdStatus => [.busByte (statusReadByte p status)]
  | .rdData =>
    match p.dataReadMode with
    | .directIncrement => [.busByte byteAtV]
    | .noEffect => [.busByte (Config.freeByte draws)]
  | _ => []

theorem exec_busMaster_answers {i : Instr} {s t : State} (hi : i.agent = .busMaster) (h : exec i s = .next t) :
    t.answers = busAnswers s.params s.status s.draws (s.vramByte s.vAddr) i ++ s.answers := by
  obtain ⟨rfl, hi⟩ | ⟨rfl, hi⟩ | ⟨rfl, rfl⟩ | ⟨rfl, hmode, -, rfl⟩ | ⟨d, rfl, rfl⟩ | ⟨b, rfl, rfl⟩ |
    ⟨d, rfl, -, rfl⟩ | ⟨rfl, -⟩ | ⟨m, c, rfl, -⟩ | ⟨n, g, rfl, -, -, -⟩ | ⟨n, rfl, -, -⟩ := exec_next_cases h
  · -- no statement
    obtain ⟨_, rfl⟩ | ⟨_, rfl⟩ | ⟨_, rfl⟩ | ⟨_, rfl⟩ | ⟨_, rfl⟩ | ⟨_, rfl⟩ | ⟨_, _, rfl⟩ | rfl := hi <;> rfl
  · -- a draw returned: an unreadable register, or the data port under `NO_EFFECT`
    obtain rfl | rfl | rfl | rfl | rfl | rfl | ⟨rfl, hmode, -⟩ := hi
    pick_goal 7
    · rw [busAnswers, hmode]
      rfl
    all_goals rfl
  · rfl -- `rdStatus`
  · rw [busAnswers, hmode] -- `rdData` under `DIRECT_INCREMENT`
    rfl
  · rfl -- `wrCtrl`
  · exact latchWriteHalf_answers b s -- `wrAddr`
  · rfl -- `wrData`
  all_goals cases hi -- `reset`, `statusEvent` and `decodeTile` are not the bus master's

/-- Settles O4: `busAnswers` is a function of what the two states agree on. -/
theorem busOperationsDoNotReadLatch : Obligations.BusOperationsDoNotReadLatch := by
  intro s t s' t' i hi hparams hstatus hdraws hanswers hbyte hs ht
  have hbyte' : s.vramByte s.vAddr = t.vramByte t.vAddr := hbyte
  rw [exec_busMaster_answers hi hs, exec_busMaster_answers hi ht, hparams, hstatus, hdraws, hanswers, hbyte']

/-! ### Idempotent accesses -/

/-- The accesses that leave the architectural state alone, in every state where a scroll write has no effect. -/
theorem exec_sameArch {d : Byte} {a : Addr} {i : Instr} (hi : i ∈ [Instr.rdCtrl, .rdR1, .rdR3, .rdR4, .rdScroll,
      .rdAddr] ∨ i ∈ [Instr.wrStatus d, .wrR1 d, .wrR3 d, .wrR4 d] ∨ i = .wrScroll d ∨ i = .rdUnmapped a ∨
      i = .wrUnmapped a d) {s : State} (hs : s.params.scrollPolicy = .noEffect) :
    ∃ t, exec i s = .next t ∧ State.sameArch s t := by
  obtain hread | hwrite | rfl | rfl | rfl := hi
  · exact ⟨_, (exec_unreadable hread s).trans (returnDraw_eq s), rfl, rfl, rfl, rfl, rfl⟩
  · exact ⟨s, exec_discarded hwrite s, rfl, rfl, rfl, rfl, rfl⟩
  · exact ⟨s, exec_wrScroll_noEffect hs d, rfl, rfl, rfl, rfl, rfl⟩
  · exact ⟨s, exec_rdUnmapped a s, rfl, rfl, rfl, rfl, rfl⟩
  · exact ⟨s, exec_wrUnmapped a d s, rfl, rfl, rfl, rfl, rfl⟩

/-- A second data-port access from reset goes on from the `V` the first left, and leaves another. -/
theorem exec_dataPort_twice_from_reset {i : Instr} (hi : i = .rdData ∨ ∃ d, i = .wrData d) :
    ∃ t u, exec i State.reset = .next t ∧ exec i t = .next u ∧ ¬ State.sameArch t u := by
  obtain ⟨t, ht, -⟩ := exec_dataPort_advances (s := State.reset) hi rfl rfl
  have hparams : t.params = Params.defaults := exec_params ht
  obtain ⟨u, hu, huv⟩ := exec_dataPort_advances (s := t) hi (hparams ▸ rfl) (hparams ▸ rfl)
  refine ⟨t, u, ht, hu, fun ⟨_, hv, _⟩ => vAddr_add_inc_ne t (huv.symm.trans ?_)⟩
  rw [State.vAddr, State.vAddr, hv]

/-- Settles O11: the idempotent accesses leave the architectural state alone, but for WR_CTRL, which stores the same
byte again. The other four differ from State.reset: VBLANK is read set and then clear, `V` advances again, the phase
toggles back. -/
theorem idempotentAccesses : Obligations.IdempotentAccesses := by
  refine ⟨fun d a i hi s t hs h => ?same, ⟨State.reset, _, _, rfl, rfl, ?status⟩, ⟨State.reset, ?dataRead⟩,
    fun b => ⟨State.reset, _, _, rfl, rfl, ?address⟩, fun d => ⟨State.reset, ?dataWrite⟩⟩
  case same =>
    by_cases hctrl : i = .wrCtrl d
    · subst hctrl
      cases h
      exact ⟨_, exec_wrCtrl d _, rfl, rfl, rfl, rfl, rfl⟩
    · refine exec_sameArch (d := d) (a := a) ?_ (exec_params h ▸ hs)
      simp only [List.mem_cons, List.not_mem_nil, or_false] at hi ⊢
      tauto
  case status => decide
  case dataRead => exact exec_dataPort_twice_from_reset (.inl rfl)
  case address => exact fun ⟨hw, _⟩ => nomatch hw
  case dataWrite => exact exec_dataPort_twice_from_reset (.inr ⟨d, rfl⟩)

end Sys2Proof.Machine
end
